-- ==== Sys2Proof/Word.lean ====
section
/-! DEFINITION. The words of the block: bytes and the 24-bit flags word (00_scope.md R6, R8, R9). -/

namespace Sys2Proof

/-- One 8-bit byte of a chunk, of the frame buffer or of a frame (R6, R21). -/
abbrev Byte := BitVec 8

/-- The flags word `F` of R27 and R74: flags byte `k` stands at bits `8k-1` down to `8k-8`. -/
abbrev FlagsWord := BitVec 24

/-- The terminator bit of a flags byte is its bit 7 (R53, R73). -/
abbrev terminated (b : Byte) : Bool := b.getLsbD 7

end Sys2Proof
end

