-- ==== Sys2Proof/Config.lean ====
section
/-! DEFINITION. What a build of the block fixes: the constants of 00_scope.md R6, the open parameters of R7,
and the one free value of the model. -/

namespace Sys2Proof

/-- The label the spec gives the protocol it states (R2, decision D1). -/
def Config.versionLabel : String := "CRS-v7"

/-- `SENTINEL`, the frame terminator (R6). -/
def Config.sentinel : Byte := 0xC0#8

/-- `FLAGS_MAX_BYTES` (R6). -/
def Config.flagsMaxBytes : Nat := 3

/-- The capacities that R7 leaves open; `none` is "unbounded". They stand in State as plain data, fixed when the block is
built (R39): no step changes them. `N_STREAMS` is the number of streams State holds (log 4). -/
structure Params where
  /-- `BUF_CAP`, in bytes. -/
  bufCap : Option Nat
  /-- `ENTRY_CAP`, in entries. -/
  entryCap : Option Nat
deriving DecidableEq, Repr

/-- DESIGN CHOICE (log 4): the parameters under which R7 says the model "matches the source exactly". -/
def Params.unbounded : Params := { bufCap := none, entryCap := none }

/-- FREE VALUE (log 3): by how much the hidden reserved capacity of stream `stream` grows at its `draw`-th growth. R23 says
that it grows and not by how much. No body: nothing can be proved about its value. -/
opaque Config.capGrowth (stream draw : Nat) : Nat

end Sys2Proof
end

