-- ==== Sys2Proof/Syntax.lean ====
section
/-! DEFINITION. The 39 operations of spec/opcode_table.json, one constructor a row (30_encoding.md R89).

An operation carries the bits of its selector word that its row names as fields and does not fix. The field bytes that an
operation reads from the frame (`Rd`, R10) are no part of it: its meaning reads them at the cursor. -/

namespace Sys2Proof

inductive Instr where
  -- header flags, selector W3 (40_header_flags.md)
  | flagsLen1 (b1 : Byte)
  | flagsLen2 (b1 b2 : Byte)
  | flagsLen3 (b1 b2 b3 : Byte)
  /-- the bytes that are left in the frame, none of them with its terminator bit set (R104) -/
  | flagsShort (left : List Byte)
  | flagsUnterminated (b1 b2 b3 : Byte)
  -- header fields, selector F (41_header_fields.md)
  | hdrPid
  | hdrRoute
  | hdrRouteAlt
  | hdrApiNone
  | hdrApi8
  | hdrApi16
  | hdrTsNone
  | hdrTs48
  | hdrSize0
  | hdrSize32
  | hdrSize8
  | hdrSize16
  -- address codec, selector E[5:3] (42_address_codec.md)
  | addrN8
  | addrN16
  | addrN24
  | addrN32
  | addrM8_0
  | addrM6_2
  | addrM4_4
  | addrM2_6
  -- dispatcher, selector api_id (43_network_payload.md section 2)
  | dispatchNet
  | dispatchUnsupported (apiId : BitVec 16)
  -- network payload, selectors declared_size, tag, E and L (43_network_payload.md section 1)
  | netAck
  | netBeacon
  | netReqBeacon
  | netExtBeacon
  | netBadTag (tag : Byte)
  | netEntry (dtn active sizeMode : Bool) (addrSize : BitVec 2) (hops : BitVec 3)
  | netLinkInfo (packetSize speed : BitVec 3) (dlOnly halt : Bool)
  -- packet and trailer (44_packet_codec.md); the flag bit picks the present or the absent form of the field
  | pktDecode
  | pktSgn (sgn : Bool)
  | pktCrc (crc : Bool)
  -- frame boundary, selector last (45_frame_assembler.md)
  | feedFrame
  /-- the last byte of the buffer, none when the buffer is empty (R224) -/
  | feedNeedMore (last : Option Byte)
deriving DecidableEq, Repr

end Sys2Proof
end

