-- ==== Sys2Proof/WellFormed.lean ====
section
/-! DEFINITION. Which terms of Instr stand for an operation of spec/opcode_table.json: the row's match, mask and condition hold
of the operands it carries (30_encoding.md R89). -/

namespace Sys2Proof

/-- The tag bytes that have an operation of their own (R79). -/
def knownTag (tag : Byte) : Bool := tag == 0x00#8 || tag == 0x01#8 || tag == 0x05#8

def Instr.wellFormed : Instr → Bool
  | .flagsLen1 b1 => terminated b1
  | .flagsLen2 b1 b2 => !terminated b1 && terminated b2
  | .flagsLen3 b1 b2 b3 => !terminated b1 && !terminated b2 && terminated b3
  | .flagsShort left => decide (left.length < Config.flagsMaxBytes) && left.all (fun b => !terminated b)
  | .flagsUnterminated b1 b2 b3 => !terminated b1 && !terminated b2 && !terminated b3
  | .dispatchUnsupported apiId => apiId != 0#16
  | .netBadTag tag => !knownTag tag
  | .feedNeedMore last => last != some Config.sentinel
  | .hdrPid | .hdrRoute | .hdrRouteAlt | .hdrApiNone | .hdrApi8 | .hdrApi16 | .hdrTsNone | .hdrTs48
  | .hdrSize0 | .hdrSize32 | .hdrSize8 | .hdrSize16 => true
  | .addrN8 | .addrN16 | .addrN24 | .addrN32 | .addrM8_0 | .addrM6_2 | .addrM4_4 | .addrM2_6 => true
  | .dispatchNet | .netAck | .netBeacon | .netReqBeacon | .netExtBeacon => true
  | .netEntry _ _ _ _ _ | .netLinkInfo _ _ _ _ => true
  | .pktDecode | .pktSgn _ | .pktCrc _ | .feedFrame => true

end Sys2Proof
end

