-- ==== Sys2Proof/Decode.lean ====
section
/-! DEFINITION. From selector words to operations and back (30_encoding.md sections 2 to 4 and 8, spec/opcode_table.json).

The block decodes no instruction words: "its opcodes are the selector values that pick each decode operation". A Selector is what
one stage of the decode looks at; `decode` reads the operation from it and is total; `encode` gives an operation its selector
words. `decodeTableWord` is the host's reading of one row of the table. -/

namespace Sys2Proof

/-! ### The flags word as a table (R28 to R30, R107) -/

/-- The named fields of the flags word. -/
inductive FlagName where
  | pidset | refset | api | dtn | adtn | sizelen0 | routeset | terminator0
  | sgn | crc | reserved | time | sizelen1 | api16 | terminator1
  | reserved3 | err | urg | enc | zip | terminator2
deriving DecidableEq, Repr

/-- The lowest bit of a field in `F`: for byte `k`, `8(k-1)` plus the bit the source gives (R107). -/
def FlagName.pos : FlagName → Nat
  | .pidset => 0 | .refset => 1 | .api => 2 | .dtn => 3 | .adtn => 4 | .sizelen0 => 5 | .routeset => 6 | .terminator0 => 7
  | .sgn => 8 | .crc => 9 | .reserved => 10 | .time => 12 | .sizelen1 => 13 | .api16 => 14 | .terminator1 => 15
  | .reserved3 => 16 | .err => 19 | .urg => 20 | .enc => 21 | .zip => 22 | .terminator2 => 23

/-- The width of a field: one bit but for the two reserved fields (R29, R30). -/
def FlagName.width : FlagName → Nat
  | .reserved => 2
  | .reserved3 => 3
  | _ => 1

/-- A one-bit field of the flags word. -/
def flag (f : FlagsWord) (n : FlagName) : Bool := f.getLsbD n.pos

/-- A field of the flags word as a number. -/
def flagField (f : FlagsWord) (n : FlagName) : BitVec n.width := f.extractLsb' n.pos n.width

/-! ### Selectors -/

/-- What one stage of the decode shows the decoder: the selector words of R89, each for the family that reads it (rows are
alternatives "only to rows of the same family and selector field"). An absent byte is `none`. -/
inductive Selector where
  /-- `W3`, byte by byte: the bytes of the frame from the cursor on, three at most -/
  | flags (left : List Byte)
  | pid (f : FlagsWord)
  | route (f : FlagsWord)
  | api (f : FlagsWord)
  | timestamp (f : FlagsWord)
  | size (f : FlagsWord)
  | signature (f : FlagsWord)
  | crc (f : FlagsWord)
  | dispatch (apiId : BitVec 16)
  /-- `declared_size` and, where it is not 0, the tag byte -/
  | payload (declared : BitVec 32) (tag : Option Byte)
  | entry (e : Option Byte)
  | address (e : Byte)
  | link (l : Option Byte)
  | packet
  | last (b : Option Byte)
deriving DecidableEq, Repr

/-- The selector bytes that can be missing from a frame: the decoder rejects by these names. The reads are those of R172, R178
and R179, and each raises `InsufficientData` (log 10). -/
inductive SelectorFault where
  | noTagByte
  | noEntryByte
  | noLinkByte
deriving DecidableEq, Repr

/-- What the decoder answers. -/
inductive Decoded where
  | op (i : Instr)
  | short (why : SelectorFault)
deriving DecidableEq, Repr

/-! ### The fields of the two packed payload bytes -/

/-- The entry flag byte `E`: `dtn` = bit 7, `active` = bit 6, `size_mode` = bit 5, `addr_size` = bits 4:3, `hops` = bits 2:0 (R80). -/
def decodeEntryByte (e : Byte) : Instr :=
  .netEntry (e.getLsbD 7) (e.getLsbD 6) (e.getLsbD 5) (e.extractLsb' 3 2) (e.extractLsb' 0 3)

/-- R80 the other way. -/
def encodeEntryByte (dtn active sizeMode : Bool) (addrSize : BitVec 2) (hops : BitVec 3) : Byte :=
  BitVec.ofBool dtn ++ BitVec.ofBool active ++ BitVec.ofBool sizeMode ++ addrSize ++ hops

/-- The LinkInfo byte `L`: `packet_size = L[2:0]`, `speed = L[5:3]`, `dl_only = L[6]`, `halt = L[7]` (R84). -/
def decodeLinkByte (l : Byte) : Instr :=
  .netLinkInfo (l.extractLsb' 0 3) (l.extractLsb' 3 3) (l.getLsbD 6) (l.getLsbD 7)

/-- R84 the other way. -/
def encodeLinkByte (packetSize speed : BitVec 3) (dlOnly halt : Bool) : Byte :=
  BitVec.ofBool halt ++ BitVec.ofBool dlOnly ++ speed ++ packetSize

/-! ### The decoder -/

/-- R73 and R100: the chain of terminator bits, read byte by byte. A byte after a set terminator bit is not looked at. -/
def decodeFlagBytes : List Byte → Instr
  | [] => .flagsShort []
  | b1 :: left1 =>
    if terminated b1 then .flagsLen1 b1
    else match left1 with
      | [] => .flagsShort [b1]
      | b2 :: left2 =>
        if terminated b2 then .flagsLen2 b1 b2
        else match left2 with
          | [] => .flagsShort [b1, b2]
          | b3 :: _ => if terminated b3 then .flagsLen3 b1 b2 b3 else .flagsUnterminated b1 b2 b3

/-- R125. -/
def decodeApi (f : FlagsWord) : Instr :=
  if flag f .api then (if flag f .api16 then .hdrApi16 else .hdrApi8) else .hdrApiNone

/-- R131: `sel = sizelen0 * 2 + sizelen1`; R77: selector 1 is the 4-byte form. -/
def decodeSize (f : FlagsWord) : Instr :=
  match flag f .sizelen0, flag f .sizelen1 with
  | false, false => .hdrSize0
  | false, true => .hdrSize32
  | true, false => .hdrSize8
  | true, true => .hdrSize16

/-- R79. -/
def decodeTag (tag : Byte) : Instr :=
  if tag = 0x00#8 then .netBeacon
  else if tag = 0x01#8 then .netReqBeacon
  else if tag = 0x05#8 then .netExtBeacon
  else .netBadTag tag

/-- R81 and R82: `E[5:3]` = (`size_mode`, `addr_size`). -/
def decodeAddressForm (e : Byte) : Instr :=
  if e.getLsbD 5 then
    if e.extractLsb' 3 2 = 0#2 then .addrM8_0
    else if e.extractLsb' 3 2 = 1#2 then .addrM6_2
    else if e.extractLsb' 3 2 = 2#2 then .addrM4_4
    else .addrM2_6
  else
    if e.extractLsb' 3 2 = 0#2 then .addrN8
    else if e.extractLsb' 3 2 = 1#2 then .addrN16
    else if e.extractLsb' 3 2 = 2#2 then .addrN24
    else .addrN32

/-- The operation a selector picks, or the name of the selector byte that is missing. -/
def decode : Selector → Decoded
  | .flags left => .op (decodeFlagBytes left)
  | .pid _ => .op .hdrPid
  | .route f => .op (if flag f .routeset then .hdrRouteAlt else .hdrRoute)
  | .api f => .op (decodeApi f)
  | .timestamp f => .op (if flag f .time then .hdrTs48 else .hdrTsNone)
  | .size f => .op (decodeSize f)
  | .signature f => .op (.pktSgn (flag f .sgn))
  | .crc f => .op (.pktCrc (flag f .crc))
  | .dispatch apiId => .op (if apiId = 0#16 then .dispatchNet else .dispatchUnsupported apiId)
  | .payload declared tag =>
    if declared = 0#32 then .op .netAck
    else match tag with
      | some t => .op (decodeTag t)
      | none => .short .noTagByte
  | .entry e =>
    match e with
    | some b => .op (decodeEntryByte b)
    | none => .short .noEntryByte
  | .address e => .op (decodeAddressForm e)
  | .link l =>
    match l with
    | some b => .op (decodeLinkByte b)
    | none => .short .noLinkByte
  | .packet => .op .pktDecode
  | .last b => .op (if b = some Config.sentinel then .feedFrame else .feedNeedMore b)

/-! ### The encoder -/

/-- The selector words of an operation: the `match` of its row of spec/opcode_table.json, with the operands in their places. A
row with mask 0 has the word 0, and its condition is met (a tag row stands under `declared_size` 1). -/
def encode : Instr → Selector
  | .flagsLen1 b1 => .flags [b1]
  | .flagsLen2 b1 b2 => .flags [b1, b2]
  | .flagsLen3 b1 b2 b3 => .flags [b1, b2, b3]
  | .flagsShort left => .flags left
  | .flagsUnterminated b1 b2 b3 => .flags [b1, b2, b3]
  | .hdrPid => .pid 0x000000#24
  | .hdrRoute => .route 0x000000#24
  | .hdrRouteAlt => .route 0x000040#24
  | .hdrApiNone => .api 0x000000#24
  | .hdrApi8 => .api 0x000004#24
  | .hdrApi16 => .api 0x004004#24
  | .hdrTsNone => .timestamp 0x000000#24
  | .hdrTs48 => .timestamp 0x001000#24
  | .hdrSize0 => .size 0x000000#24
  | .hdrSize32 => .size 0x002000#24
  | .hdrSize8 => .size 0x000020#24
  | .hdrSize16 => .size 0x002020#24
  | .addrN8 => .address 0x00#8
  | .addrN16 => .address 0x08#8
  | .addrN24 => .address 0x10#8
  | .addrN32 => .address 0x18#8
  | .addrM8_0 => .address 0x20#8
  | .addrM6_2 => .address 0x28#8
  | .addrM4_4 => .address 0x30#8
  | .addrM2_6 => .address 0x38#8
  | .dispatchNet => .dispatch 0x0000#16
  | .dispatchUnsupported apiId => .dispatch apiId
  | .netAck => .payload 0#32 none
  | .netBeacon => .payload 1#32 (some 0x00#8)
  | .netReqBeacon => .payload 1#32 (some 0x01#8)
  | .netExtBeacon => .payload 1#32 (some 0x05#8)
  | .netBadTag tag => .payload 1#32 (some tag)
  | .netEntry dtn active sizeMode addrSize hops => .entry (some (encodeEntryByte dtn active sizeMode addrSize hops))
  | .netLinkInfo packetSize speed dlOnly halt => .link (some (encodeLinkByte packetSize speed dlOnly halt))
  | .pktDecode => .packet
  | .pktSgn sgn => .signature (if sgn then 0x000100#24 else 0x000000#24)
  | .pktCrc crc => .crc (if crc then 0x000200#24 else 0x000000#24)
  | .feedFrame => .last (some Config.sentinel)
  | .feedNeedMore last => .last last

/-! ### The host's reading of one table word -/

/-- A flags word that is exactly the non-zero `match` of a header or trailer row, read as that row's selector; any other word
falls to the selector `other`. -/
def tableFlagsSelector (w : Nat) (other : Selector) : Selector :=
  let f := BitVec.ofNat 24 w
  if w = 0x40 then .route f
  else if w = 0x4 ∨ w = 0x4004 then .api f
  else if w = 0x1000 then .timestamp f
  else if w = 0x2000 ∨ w = 0x20 ∨ w = 0x2020 then .size f
  else if w = 0x100 then .signature f
  else if w = 0x200 then .crc f
  else other

/-- The three bytes of `W3`, least significant first (R74). -/
def bytesOfW3 (w : Nat) : List Byte := [BitVec.ofNat 8 w, BitVec.ofNat 8 (w / 256), BitVec.ofNat 8 (w / 65536)]

/-- DESIGN CHOICE (log 9): a word of spec/opcode_table.json does not say which selector field it is, and several rows share a
word. The word is read as the selector whose row's `match` it is, the rows with the most bits fixed first. -/
def tableSelector (nbits w : Nat) : Option Selector :=
  if 2 ^ nbits ≤ w then none
  else if nbits = 8 then
    if w = 0xC0 then some (.last (some 0xC0#8))
    else if w = 0x00 ∨ w = 0x01 ∨ w = 0x05 then some (.payload 1#32 (some (BitVec.ofNat 8 w)))
    else if w = 0x40 then some (.route 0x000040#24)
    else if w = 0x80 then some (.flags (bytesOfW3 w))
    else some (.address (BitVec.ofNat 8 w))
  else if nbits = 16 then
    if w = 0x8000 then some (.flags (bytesOfW3 w))
    else some (tableFlagsSelector w (.dispatch (BitVec.ofNat 16 w)))
  else if nbits = 24 then some (tableFlagsSelector w (.flags (bytesOfW3 w)))
  else if nbits = 32 then some (.payload (BitVec.ofNat 32 w) (some 0x00#8))
  else none

/-- The operation the decoder reads from a row's word (log 9). -/
def decodeTableWord (nbits w : Nat) : Option Instr :=
  match tableSelector nbits w with
  | none => none
  | some sel =>
    match decode sel with
    | .op i => some i
    | .short _ => none

end Sys2Proof
end

