-- ==== Sys2Proof/Machine/State.lean ====
section
/-! DEFINITION. The state of the block (10_state.md), plain data: the streams' persistent state, the frame snapshot and cursor, the
field registers of the decode in progress, the build's parameters and the host's pending inputs; the faults and refusals; the
state after reset. -/

namespace Sys2Proof.Machine

/-! ### Records of the data model -/

/-- R34. -/
structure LinkInfo where
  packetSize : BitVec 3
  speed : BitVec 3
  dlOnly : Bool
  halt : Bool
deriving DecidableEq, Repr

/-- R33: one neighbour record. -/
structure Entry where
  dtn : Bool
  active : Bool
  sizeMode : Bool
  addrSize : BitVec 2
  hops : BitVec 3
  age : BitVec 8
  address : BitVec 32
  qualifier : BitVec 8
  /-- present iff the payload tag is `ExtendedBeacon` -/
  link : Option LinkInfo
deriving DecidableEq, Repr

/-- R32. -/
inductive PayloadTag where
  | ack
  | beacon
  | requestBeacon
  | extendedBeacon
deriving DecidableEq, Repr

/-- One route id pair of R31. -/
structure RouteId where
  sys : BitVec 16
  sub : BitVec 16
deriving DecidableEq, Repr

/-- The field registers of R27, R31, R32 and R36; as the record of R38, the Packet a `Produced` response carries. -/
structure Packet where
  /-- `F` -/
  flags : FlagsWord
  /-- `FLEN` -/
  flen : BitVec 2
  pid : BitVec 16
  /-- `route[0]`, by convention the source -/
  route0 : RouteId
  /-- `route[1]`, by convention the destination -/
  route1 : RouteId
  apiId : BitVec 16
  timestamp : BitVec 64
  payloadSize : BitVec 32
  ptag : PayloadTag
  entries : List Entry
  signature : BitVec 16
  crcValue : BitVec 16
deriving DecidableEq, Repr

/-- DESIGN CHOICE (log 2): what the entry registers hold while no entry is being decoded. -/
def Entry.blank : Entry :=
  { dtn := false, active := false, sizeMode := false, addrSize := 0, hops := 0, age := 0, address := 0, qualifier := 0, link := none }

/-- DESIGN CHOICE (log 2): what the field registers hold while no frame is being decoded. -/
def Packet.blank : Packet :=
  { flags := 0, flen := 0, pid := 0, route0 := ⟨0, 0⟩, route1 := ⟨0, 0⟩, apiId := 0, timestamp := 0, payloadSize := 0,
    ptag := .ack, entries := [], signature := 0, crcValue := 0 }

/-! ### Responses -/

/-- The five kinds of `DecodeError` (R250). -/
inductive ErrorKind where
  | malformedHeader
  | unsupportedRouteFormat
  | unsupportedApi
  | unsupportedNetworkPacketType
  | insufficientData
deriving DecidableEq, Repr

/-- The three responses of R37. -/
inductive Response where
  | needMoreData
  | produced (p : Packet)
  | decodeError (k : ErrorKind)
deriving DecidableEq, Repr

/-- The two refusal outcomes of R262, which stop one decoder for good. -/
inductive StopReason where
  | bufferCapExceeded
  | entryCapExceeded
deriving DecidableEq, Repr

/-! ### One decoder, the host's inputs, the place in the decode -/

/-- The persistent state of one decoder (R20), its last response, and the mark of a refusal. -/
structure Stream where
  /-- the frame buffer (R21) -/
  buf : List Byte
  /-- the hidden reserved capacity (R23); no operation reads it but its own growth -/
  cap : Nat
  /-- MODEL'S OWN: how many free growths `cap` has had (log 3) -/
  draws : Nat
  /-- the response to this stream's last FEED, none before the first and while one is in progress (R37, R42) -/
  response : Option Response
  /-- set when a FEED of this stream was refused (R262, log 6) -/
  stopped : Option StopReason
deriving DecidableEq, Repr

/-- What the host may do between FEEDs (R283): feed a chunk to a stream, or reset a stream. -/
inductive Input where
  | feed (stream : Nat) (chunk : List Byte)
  | reset (stream : Nat)
deriving DecidableEq, Repr

/-- MODEL'S OWN (log 1): the stage that comes next in the fixed order of R220, R200, R120, R184, R170 and R178. -/
inductive Phase where
  | idle
  | boundary
  | packet
  | flags
  | pid
  | route
  | api
  | timestamp
  | size
  | dispatch
  | network
  | entry
  | address
  | link
  | signature
  | crc
deriving DecidableEq, Repr

/-! ### Faults, refusals, state -/

/-- Reasons for `Outcome.fault`. -/
inductive Fault where
  /-- raised when the host's next input names a stream that does not exist; safe (log 8) -/
  | noSuchStream
deriving DecidableEq, Repr

/-- Reasons for `Outcome.refused`. -/
inductive Refusal where
  /-- raised by an arm of `exec` whose operation has no meaning yet; safe. No arm does. -/
  | notModelled (mnemonic : String)
  /-- raised when a stream that was refused is fed again: "no later FEED of that instance has a meaning" (R262); safe (log 6) -/
  | streamStopped (why : StopReason)
deriving DecidableEq, Repr

structure State where
  /-- `BUF_CAP` and `ENTRY_CAP`, fixed when the block is built (R7, R39; log 4) -/
  params : Params
  /-- the decoders, one a stream; there are `N_STREAMS` of them (R41) -/
  streams : List Stream
  /-- MODEL'S OWN (log 5): the stream whose FEED is in progress, or was the last one -/
  active : Nat
  /-- MODEL'S OWN (log 7): what the host has asked for and the block has not taken yet, oldest first -/
  inputs : List Input
  /-- MODEL'S OWN (log 1): the stage that comes next -/
  phase : Phase
  /-- the frame snapshot (R22) -/
  frm : List Byte
  /-- the cursor (R24) -/
  cur : Nat
  /-- the field registers of R27, R31, R32 and R36 -/
  fields : Packet
  /-- the entry being decoded (R33, R178) -/
  entry : Entry
  /-- the loop's count of bytes consumed (R170, R176) -/
  consumed : Nat
  /-- the cursor at the start of the entry being decoded (R170) -/
  start : Nat
deriving DecidableEq, Repr

/-- One decoder right after reset (R42, R280); `cap` and `draws` by DESIGN CHOICE (log 3). -/
def Stream.fresh : Stream := { buf := [], cap := 0, draws := 0, response := none, stopped := none }

/-- The block right after reset, built with parameters `p` and `n` streams (R42, R280, R282). -/
def State.built (p : Params) (n : Nat) : State :=
  { params := p, streams := List.replicate n Stream.fresh, active := 0, inputs := [], phase := .idle, frm := [], cur := 0,
    fields := Packet.blank, entry := Entry.blank, consumed := 0, start := 0 }

/-- DESIGN CHOICE (log 4): one stream, capacities unbounded, "as in the source's growable buffer". -/
def State.reset : State := State.built Params.unbounded 1

end Sys2Proof.Machine
end

