-- ==== Sys2Proof/Machine/Memory.lean ====
section
/-! DEFINITION. The byte spaces of the block (20_memory.md). The frame snapshot and the frame buffer are byte sequences with a
length (R50): address `a` exists iff `a < len`, and a read past the end is a defined event of its own (R25). They are kept as the
spec has them, as lists of bytes (log 12); `cells` is the same memory as address and byte pairs. -/

namespace Sys2Proof.Machine

/-- A byte space: the byte at address `a` is the `a`-th one (R9, R50). -/
abbrev Memory := List Byte

/-- The little-endian value of a run of bytes: the first byte is bits 7:0 (R52, R86). -/
def leNat : List Byte → Nat
  | [] => 0
  | b :: bs => b.toNat + 256 * leNat bs

/-- `MemRead(addr, n)` of R10: the little-endian value of `n` bytes, or nothing when a byte of them does not exist. -/
def memRead (m : Memory) (addr n : Nat) : Option Nat :=
  if addr + n ≤ m.length then some (leNat ((m.drop addr).take n)) else none

/-- `Append(buf, chunk)` of R10, the only write but for clearing (R56, R221). -/
def append (buf : Memory) (chunk : List Byte) : Memory := buf ++ chunk

/-- The last byte of a byte space, none when it is empty (R222). -/
def lastByte (m : Memory) : Option Byte := m.getLast?

/-- The memory as address and byte pairs, from address `base` on. -/
def cellsFrom (base : Nat) : Memory → List Host.Cell
  | [] => []
  | b :: bs => (base, b) :: cellsFrom (base + 1) bs

/-- The memory as address and byte pairs. An address that is not listed does not exist: it has no value. -/
def cells (m : Memory) : List Host.Cell := cellsFrom 0 m

/-- The canonical form of a list of pairs: addresses strictly rising from `base` on. -/
def cellsWf (base : Nat) : List Host.Cell → Bool
  | [] => true
  | c :: cs => decide (base ≤ c.1) && cellsWf (c.1 + 1) cs

/-- The canonical form holds of a memory's pairs. -/
def Memory.wf (m : Memory) : Bool := cellsWf 0 (cells m)

end Sys2Proof.Machine
end

