-- ==== Sys2Proof/Machine/Ops.lean ====
section
/-! DEFINITION. The operations every meaning is built from: the cursor read (R10), giving a response and ending a FEED (R37, R223),
raising an error (R254), stopping a stream (R262), and taking the host's inputs (R220, R221, R229, R280). -/

namespace Sys2Proof.Machine

abbrev Result := Host.Outcome State Fault Refusal

/-! ### The stream whose FEED is in progress -/

/-- The frame buffer of the active stream. In a state without that stream, which no run reaches, it reads as empty (log 13). -/
def activeBuf (s : State) : Memory := ((s.streams[s.active]?).map Stream.buf).getD []

/-- Change the active stream. -/
def updateActive (f : Stream → Stream) (s : State) : State := { s with streams := s.streams.modify s.active f }

/-! ### Ending a FEED -/

/-- The FEED in progress returns: the frame snapshot, the cursor and every field register of the decode are discarded (R22, R26,
R254), and the active stream changes by `f`. -/
def finish (f : Stream → Stream) (s : State) : State :=
  { updateActive f s with
    phase := .idle, frm := [], cur := 0, fields := Packet.blank, entry := Entry.blank, consumed := 0, start := 0 }

/-- Give the FEED in progress its one response (R37). -/
def respond (r : Response) (s : State) : State := finish (fun d => { d with response := some r }) s

/-- `raise k` (R10, R254): the decode ends at once, the FEED answers `DecodeError(k)`, and nothing but the kind is kept. There is
no vector, no saved position, and no return operation (R255): the next FEED starts a new frame. -/
def raiseError (k : ErrorKind) (s : State) : Result := .next (respond (.decodeError k) s)

/-- `Refused(why)` (R262): the FEED in progress gets no response, and its stream stops for good (log 6, log 17). -/
def stopActive (why : StopReason) (s : State) : State :=
  finish (fun d => { d with response := none, stopped := some why }) s

/-! ### Reading the frame -/

/-- The cursor advances by `n` (R24). -/
def moveCursor (n : Nat) (s : State) : State := { s with cur := s.cur + n }

/-- `Rd(n)` of R10: read `n` bytes at the cursor, advance it by `n`, and go on with the value; `InsufficientData` when the frame
has fewer (R25, R136). No part of a read that fails is kept. -/
def reading (n : Nat) (s : State) (go : Nat → State → Result) : Result :=
  match memRead s.frm s.cur n with
  | some v => go v (moveCursor n s)
  | none => raiseError .insufficientData s

/-- Change the field registers and go to the next stage. -/
def proceed (next : Phase) (f : Packet → Packet) (s : State) : State := { s with fields := f s.fields, phase := next }

/-! ### The host's inputs -/

/-- Would the append make the buffer longer than `BUF_CAP` (R220, R229)? -/
def overBufCap (p : Params) (buf : Memory) (chunk : List Byte) : Bool :=
  match p.bufCap with
  | none => false
  | some c => decide (c < buf.length + chunk.length)

/-- FEED, as far as the boundary test (R220, R221, R229): refuse the chunk if it does not fit, else append it. -/
def acceptFeed (k : Nat) (chunk : List Byte) (s : State) : Result :=
  match s.streams[k]? with
  | none => .fault .noSuchStream
  | some d =>
    match d.stopped with
    | some why => .refused (.streamStopped why)
    | none =>
      if overBufCap s.params d.buf chunk then .next (stopActive .bufferCapExceeded { s with active := k })
      else .next (updateActive (fun d => { d with buf := append d.buf chunk, response := none })
        { s with active := k, phase := .boundary })

/-- Reset of one stream (R280): the bytes buffered since the last boundary are discarded and no response is pending. "Reset has no
other effect": a stopped stream stays stopped (R262, log 6). -/
def resetStream (k : Nat) (s : State) : Result :=
  match s.streams[k]? with
  | none => .fault .noSuchStream
  | some _ => .next { s with streams := s.streams.modify k (fun d => { d with buf := [], response := none }) }

/-- The idle block takes the host's oldest input. With none it waits, which changes nothing (R283, log 7). -/
def takeInput (s : State) : Result :=
  match s.inputs with
  | [] => .next s
  | .feed k chunk :: rest => acceptFeed k chunk { s with inputs := rest }
  | .reset k :: rest => resetStream k { s with inputs := rest }

/-! ### The entry loop (R176) -/

/-- The loop test, "continue while consumed < declared_size": decode another entry, or go on to the trailer. No clamp, no error for
an overrun. -/
def entryLoop (s : State) : State :=
  { s with phase := if s.consumed < s.fields.payloadSize.toNat then .entry else .signature }

/-- Is the entry list full (R182, log 14)? -/
def entriesFull (p : Params) (entries : List Entry) : Bool :=
  match p.entryCap with
  | none => false
  | some c => decide (c ≤ entries.length)

/-- The entry being decoded. -/
def withEntry (e : Entry) (s : State) : State := { s with entry := e }

/-- The decoded entry is appended after the earlier ones (R180), and the bytes it took are counted (R170). -/
def appendEntry (s : State) : State :=
  { s with
    fields := { s.fields with entries := s.fields.entries ++ [s.entry] },
    consumed := s.consumed + (s.cur - s.start) }

/-- The end of one pass of the loop of R170: the entry is appended and the loop test is made; a list that is full stops
the stream (R182). -/
def finishEntry (s : State) : Result :=
  if entriesFull s.params s.fields.entries then .next (stopActive .entryCapExceeded s)
  else .next (entryLoop (appendEntry s))

/-! ### Numeric codes (R250, R252) -/

def errorCode : ErrorKind → Nat
  | .malformedHeader => 1
  | .unsupportedRouteFormat => 2
  | .unsupportedApi => 3
  | .unsupportedNetworkPacketType => 4
  | .insufficientData => 5

def responseCode : Response → Nat
  | .needMoreData => 0
  | .produced _ => 1
  | .decodeError _ => 2

end Sys2Proof.Machine
end

