-- ==== Sys2Proof/Machine/Operands.lean ====
section
/-! DEFINITION. The operand forms: the two address encodings (42_address_codec.md R150) and the entry flag byte the address
decoder looks at (R80). -/

namespace Sys2Proof.Machine

/-- The high-order bits of the micro-mode byte, `m >> qb` (R150, R82). -/
def microAddress (qb m : Nat) : BitVec 32 := BitVec.ofNat 32 (m >>> qb)

/-- The low-order bits of the micro-mode byte, `m & ((1 << qb) - 1)` (R150, R82). -/
def microQualifier (qb m : Nat) : BitVec 8 := BitVec.ofNat 8 (m &&& ((1 <<< qb) - 1))

/-- The entry flag byte `E` of the entry being decoded (R80). -/
def entryFlagByte (e : Entry) : Byte := encodeEntryByte e.dtn e.active e.sizeMode e.addrSize e.hops

/-- The entry registers whose flag byte is `e` (R80). -/
def entryOfFlagByte (e : Byte) : Entry :=
  { Entry.blank with
    dtn := e.getLsbD 7, active := e.getLsbD 6, sizeMode := e.getLsbD 5, addrSize := e.extractLsb' 3 2, hops := e.extractLsb' 0 3 }

/-- The entry has its address: an `ExtendedBeacon` entry goes on to its LinkInfo byte, any other is complete (R178). -/
def setAddress (address : BitVec 32) (qualifier : BitVec 8) (s : State) : Result :=
  let s1 := withEntry { s.entry with address := address, qualifier := qualifier } s
  if s.fields.ptag = .extendedBeacon then .next { s1 with phase := .link } else finishEntry s1

/-- Normal mode: `n` address bytes, little-endian, zero-extended, then exactly one qualifier byte (R150, R81). -/
def normalAddress (n : Nat) (s : State) : Result :=
  reading n s fun a s1 => reading 1 s1 fun q s2 => setAddress (BitVec.ofNat 32 a) (BitVec.ofNat 8 q) s2

/-- Micro mode: exactly one byte, split with `qb` qualifier bits (R150, R82). -/
def splitAddress (qb : Nat) (s : State) : Result :=
  reading 1 s fun m s1 => setAddress (microAddress qb m) (microQualifier qb m) s1

end Sys2Proof.Machine
end

