-- ==== Sys2Proof/Machine/Address.lean ====
section
/-! DEFINITION. The dual-format address decoder (42_address_codec.md). -/

namespace Sys2Proof.Machine

/-- ADDR.N8 (R151). -/
def execAddrN8 (s : State) : Result := normalAddress 1 s

/-- ADDR.N16 (R152). -/
def execAddrN16 (s : State) : Result := normalAddress 2 s

/-- ADDR.N24 (R153). -/
def execAddrN24 (s : State) : Result := normalAddress 3 s

/-- ADDR.N32 (R154). -/
def execAddrN32 (s : State) : Result := normalAddress 4 s

/-- ADDR.M8_0 (R155). -/
def execAddrM8_0 (s : State) : Result := splitAddress 0 s

/-- ADDR.M6_2 (R156). -/
def execAddrM6_2 (s : State) : Result := splitAddress 2 s

/-- ADDR.M4_4 (R157). -/
def execAddrM4_4 (s : State) : Result := splitAddress 4 s

/-- ADDR.M2_6 (R158). -/
def execAddrM2_6 (s : State) : Result := splitAddress 6 s

end Sys2Proof.Machine
end

