-- ==== Sys2Proof/Machine/FrameAssembler.lean ====
section
/-! DEFINITION. The two outcomes of the frame-boundary test (45_frame_assembler.md). -/

namespace Sys2Proof.Machine

/-- FEED.FRAME (R223): the whole buffer is handed over as the frame snapshot and the buffer is cleared. -/
def execFeedFrame (s : State) : Result :=
  .next { updateActive (fun d => { d with buf := [] }) s with frm := activeBuf s, phase := .packet }

/-- The reserved capacity grows, by a free amount (R23, log 3). -/
def growCap (k : Nat) (d : Stream) : Stream :=
  { d with cap := d.cap + Config.capGrowth k d.draws, draws := d.draws + 1 }

/-- FEED.NEEDMORE (R224): the buffer keeps its bytes, the capacity grows (R23), and the FEED answers `NeedMoreData`. -/
def execFeedNeedMore (s : State) : Result :=
  .next (finish (fun d => growCap s.active { d with response := some .needMoreData }) s)

end Sys2Proof.Machine
end

