-- ==== Sys2Proof/Machine/HeaderFields.lean ====
section
/-! DEFINITION. The conditional header field multiplexer (41_header_fields.md). -/

namespace Sys2Proof.Machine

/-- HDR.PID (R121): read whatever `pidset` is. -/
def execHdrPid (s : State) : Result :=
  reading 2 s fun v s1 => .next (proceed .route (fun p => { p with pid := BitVec.ofNat 16 v }) s1)

/-- HDR.ROUTE (R123): four bytes, each zero-extended to 16 bits. -/
def execHdrRoute (s : State) : Result :=
  reading 1 s fun a s1 => reading 1 s1 fun b s2 => reading 1 s2 fun c s3 => reading 1 s3 fun d s4 =>
    .next (proceed .api (fun p => { p with
      route0 := ⟨BitVec.ofNat 16 a, BitVec.ofNat 16 b⟩, route1 := ⟨BitVec.ofNat 16 c, BitVec.ofNat 16 d⟩ }) s4)

/-- HDR.ROUTE_ALT (R124). -/
def execHdrRouteAlt (s : State) : Result := raiseError .unsupportedRouteFormat s

/-- The API id takes its value. -/
def setApiId (v : Nat) (s : State) : Result :=
  .next (proceed .timestamp (fun p => { p with apiId := BitVec.ofNat 16 v }) s)

/-- HDR.API_NONE (R126). -/
def execHdrApiNone (s : State) : Result := setApiId 0 s

/-- HDR.API8 (R127). -/
def execHdrApi8 (s : State) : Result := reading 1 s setApiId

/-- HDR.API16 (R128). -/
def execHdrApi16 (s : State) : Result := reading 2 s setApiId

/-- The timestamp takes its value, zero-extended to 64 bits. -/
def setTimestamp (v : Nat) (s : State) : Result :=
  .next (proceed .size (fun p => { p with timestamp := BitVec.ofNat 64 v }) s)

/-- HDR.TS_NONE (R129). -/
def execHdrTsNone (s : State) : Result := setTimestamp 0 s

/-- HDR.TS48 (R130). -/
def execHdrTs48 (s : State) : Result := reading 6 s setTimestamp

/-- The payload size takes its value; the header is complete (R137). -/
def setPayloadSize (v : Nat) (s : State) : Result :=
  .next (proceed .dispatch (fun p => { p with payloadSize := BitVec.ofNat 32 v }) s)

/-- HDR.SIZE0 (R132). -/
def execHdrSize0 (s : State) : Result := setPayloadSize 0 s

/-- HDR.SIZE32 (R133). -/
def execHdrSize32 (s : State) : Result := reading 4 s setPayloadSize

/-- HDR.SIZE8 (R134). -/
def execHdrSize8 (s : State) : Result := reading 1 s setPayloadSize

/-- HDR.SIZE16 (R135). -/
def execHdrSize16 (s : State) : Result := reading 2 s setPayloadSize

end Sys2Proof.Machine
end

