-- ==== Sys2Proof/Machine/Flags.lean ====
section
/-! DEFINITION. Assembling the flags word (30_encoding.md R74, 40_header_flags.md R100). The named flag bits are the table of
Sys2Proof/Decode.lean (R107). The block has no condition codes (R35). -/

namespace Sys2Proof.Machine

/-- `F = b1 | (b2 << 8) | (b3 << 16)`; an absent byte is 0 (R74, decision D5). -/
def packFlags (b1 b2 b3 : Byte) : FlagsWord :=
  b1.setWidth 24 ||| (b2.setWidth 24 <<< 8) ||| (b3.setWidth 24 <<< 16)

/-- The flags chain ended after `n` bytes with the word `f`: write `F` and `FLEN`, move past the bytes (R100). Where the frame has
fewer than `n` bytes left the header is malformed, which is not `InsufficientData` (R104, log 16). -/
def takeFlags (n : Nat) (f : FlagsWord) (s : State) : Result :=
  if s.cur + n ≤ s.frm.length then
    .next (proceed .pid (fun p => { p with flags := f, flen := BitVec.ofNat 2 n }) (moveCursor n s))
  else raiseError .malformedHeader s

end Sys2Proof.Machine
end

