-- ==== Sys2Proof/Machine/HeaderFlags.lean ====
section
/-! DEFINITION. The header-flags parser (40_header_flags.md): FLAGS.LEN1, LEN2, LEN3, SHORT, UNTERMINATED. -/

namespace Sys2Proof.Machine

/-- R101. -/
def execFlagsLen1 (b1 : Byte) (s : State) : Result := takeFlags 1 (packFlags b1 0 0) s

/-- R102. -/
def execFlagsLen2 (b1 b2 : Byte) (s : State) : Result := takeFlags 2 (packFlags b1 b2 0) s

/-- R103. -/
def execFlagsLen3 (b1 b2 b3 : Byte) (s : State) : Result := takeFlags 3 (packFlags b1 b2 b3) s

/-- R104: the chain is cut short by the end of the frame. -/
def execFlagsShort (s : State) : Result := raiseError .malformedHeader s

/-- R105: no terminator within the cap of three bytes. -/
def execFlagsUnterminated (s : State) : Result := raiseError .malformedHeader s

end Sys2Proof.Machine
end

