-- ==== Sys2Proof/Machine/NetworkPayload.lean ====
section
/-! DEFINITION. The payload dispatcher and the beacon-payload decoder (43_network_payload.md). -/

namespace Sys2Proof.Machine

/-- DISPATCH.NET (R185): the payload decoder runs next, with the header's `payload_size`. -/
def execDispatchNet (s : State) : Result := .next { s with phase := .network }

/-- DISPATCH.UNSUPPORTED (R186): before any payload byte is read. -/
def execDispatchUnsupported (s : State) : Result := raiseError .unsupportedApi s

/-- NET.ACK (R171): no byte is read. -/
def execNetAck (s : State) : Result :=
  .next (proceed .signature (fun p => { p with ptag := .ack, entries := [] }) s)

/-- The payload starts, with its tag, no entries, and the tag byte counted. -/
def beginPayload (tag : PayloadTag) (s : State) : State :=
  { s with fields := { s.fields with ptag := tag, entries := [] }, consumed := 1 }

/-- The tag byte is read and counts toward `consumed`, which starts at 1 (R172). -/
def readTag (tag : PayloadTag) (s : State) (go : State → Result) : Result :=
  reading 1 s fun _ s1 => go (beginPayload tag s1)

/-- NET.BEACON (R173). -/
def execNetBeacon (s : State) : Result := readTag .beacon s fun s1 => .next (entryLoop s1)

/-- NET.REQBEACON (R174): no further bytes. -/
def execNetReqBeacon (s : State) : Result := readTag .requestBeacon s fun s1 => .next { s1 with phase := .signature }

/-- NET.EXTBEACON (R175). -/
def execNetExtBeacon (s : State) : Result := readTag .extendedBeacon s fun s1 => .next (entryLoop s1)

/-- NET.BADTAG (R177): after the tag is read and before any entry is. -/
def execNetBadTag (s : State) : Result := reading 1 s fun _ s1 => raiseError .unsupportedNetworkPacketType s1

/-- The entry `e` starts, its first byte at `start`; its address is next. -/
def beginEntry (start : Nat) (e : Entry) (s : State) : State := { s with entry := e, start := start, phase := .address }

/-- NET.ENTRY (R178), as far as the age byte: `E` and `age` are read and the entry begins. Its address is decoded by the ADDR
operation that `E[5:3]` picks and its LinkInfo byte by NET.LINKINFO (log 11); until then these registers are blank (log 2). -/
def execNetEntry (dtn active sizeMode : Bool) (addrSize : BitVec 2) (hops : BitVec 3) (s : State) : Result :=
  reading 1 s fun _ s1 => reading 1 s1 fun age s2 =>
    .next (beginEntry s.cur { Entry.blank with
      dtn := dtn, active := active, sizeMode := sizeMode, addrSize := addrSize, hops := hops, age := BitVec.ofNat 8 age } s2)

/-- NET.LINKINFO (R179): the entry has its LinkInfo record and is complete. -/
def execNetLinkInfo (packetSize speed : BitVec 3) (dlOnly halt : Bool) (s : State) : Result :=
  reading 1 s fun _ s1 => finishEntry (withEntry
    { s1.entry with link := some { packetSize := packetSize, speed := speed, dlOnly := dlOnly, halt := halt } } s1)

end Sys2Proof.Machine
end

