-- ==== Sys2Proof/Machine/PacketTrailer.lean ====
section
/-! DEFINITION. The packet decoder and trailer reader (44_packet_codec.md). -/

namespace Sys2Proof.Machine

/-- PKT.DECODE (R200), as far as its first step: the cursor is 0 and the header decode starts on fresh field registers. The later
steps of R200 are the operations the following stages pick (log 11). -/
def execPktDecode (s : State) : Result :=
  .next { s with cur := 0, fields := Packet.blank, entry := Entry.blank, consumed := 0, start := 0, phase := .flags }

/-- The signature takes its value. -/
def setSignature (v : Nat) (s : State) : Result :=
  .next (proceed .crc (fun p => { p with signature := BitVec.ofNat 16 v }) s)

/-- PKT.SGN (R202): `Rd(2)` if `sgn = 1`, else 0 (log 15). -/
def execPktSgn (sgn : Bool) (s : State) : Result := if sgn then reading 2 s setSignature else setSignature 0 s

/-- The CRC field takes its value, and with it the Packet is complete: the FEED answers `Produced` (R200, R203). Nothing after the
last field is read (R204). -/
def producePacket (v : Nat) (s : State) : Result :=
  .next (respond (.produced { s.fields with crcValue := BitVec.ofNat 16 v }) s)

/-- PKT.CRC (R203): `Rd(2)` if `crc = 1`, else 0 (log 15). -/
def execPktCrc (crc : Bool) (s : State) : Result := if crc then reading 2 s producePacket else producePacket 0 s

end Sys2Proof.Machine
end

