-- ==== Sys2Proof/Machine/Dispatch.lean ====
section
/-! DEFINITION. One arm per operation of spec/opcode_table.json. -/

namespace Sys2Proof.Machine

def exec (i : Instr) (s : State) : Host.Outcome State Fault Refusal :=
  match i with
  | .flagsLen1 b1 => Sys2Proof.Machine.execFlagsLen1 b1 s
  | .flagsLen2 b1 b2 => Sys2Proof.Machine.execFlagsLen2 b1 b2 s
  | .flagsLen3 b1 b2 b3 => Sys2Proof.Machine.execFlagsLen3 b1 b2 b3 s
  | .flagsShort _ => Sys2Proof.Machine.execFlagsShort s
  | .flagsUnterminated _ _ _ => Sys2Proof.Machine.execFlagsUnterminated s
  | .hdrPid => Sys2Proof.Machine.execHdrPid s
  | .hdrRoute => Sys2Proof.Machine.execHdrRoute s
  | .hdrRouteAlt => Sys2Proof.Machine.execHdrRouteAlt s
  | .hdrApiNone => Sys2Proof.Machine.execHdrApiNone s
  | .hdrApi8 => Sys2Proof.Machine.execHdrApi8 s
  | .hdrApi16 => Sys2Proof.Machine.execHdrApi16 s
  | .hdrTsNone => Sys2Proof.Machine.execHdrTsNone s
  | .hdrTs48 => Sys2Proof.Machine.execHdrTs48 s
  | .hdrSize0 => Sys2Proof.Machine.execHdrSize0 s
  | .hdrSize32 => Sys2Proof.Machine.execHdrSize32 s
  | .hdrSize8 => Sys2Proof.Machine.execHdrSize8 s
  | .hdrSize16 => Sys2Proof.Machine.execHdrSize16 s
  | .addrN8 => Sys2Proof.Machine.execAddrN8 s
  | .addrN16 => Sys2Proof.Machine.execAddrN16 s
  | .addrN24 => Sys2Proof.Machine.execAddrN24 s
  | .addrN32 => Sys2Proof.Machine.execAddrN32 s
  | .addrM8_0 => Sys2Proof.Machine.execAddrM8_0 s
  | .addrM6_2 => Sys2Proof.Machine.execAddrM6_2 s
  | .addrM4_4 => Sys2Proof.Machine.execAddrM4_4 s
  | .addrM2_6 => Sys2Proof.Machine.execAddrM2_6 s
  | .dispatchNet => Sys2Proof.Machine.execDispatchNet s
  | .dispatchUnsupported _ => Sys2Proof.Machine.execDispatchUnsupported s
  | .netAck => Sys2Proof.Machine.execNetAck s
  | .netBeacon => Sys2Proof.Machine.execNetBeacon s
  | .netReqBeacon => Sys2Proof.Machine.execNetReqBeacon s
  | .netExtBeacon => Sys2Proof.Machine.execNetExtBeacon s
  | .netBadTag _ => Sys2Proof.Machine.execNetBadTag s
  | .netEntry dtn active sizeMode addrSize hops => Sys2Proof.Machine.execNetEntry dtn active sizeMode addrSize hops s
  | .netLinkInfo packetSize speed dlOnly halt => Sys2Proof.Machine.execNetLinkInfo packetSize speed dlOnly halt s
  | .pktDecode => Sys2Proof.Machine.execPktDecode s
  | .pktSgn sgn => Sys2Proof.Machine.execPktSgn sgn s
  | .pktCrc crc => Sys2Proof.Machine.execPktCrc crc s
  | .feedFrame => Sys2Proof.Machine.execFeedFrame s
  | .feedNeedMore _ => Sys2Proof.Machine.execFeedNeedMore s

end Sys2Proof.Machine
end

