-- ==== Sys2Proof/Machine/Fetch.lean ====
section
/-! DEFINITION. Fetching: the selector word that the stage in progress looks at (30_encoding.md R89), the operation it picks, and,
for the host's interface, placing a selector word where the next step looks for it. -/

namespace Sys2Proof.Machine

/-- The byte at the cursor, none at the end of the frame. -/
def byteAtCursor (s : State) : Option Byte := s.frm[s.cur]?

/-- The selector word of the stage in progress, none when the block is idle. `W3`, the tag, `E` (for NET.ENTRY) and `L` are bytes
of the frame at the cursor; the others are registers written earlier (R91: no look-ahead past the bytes a stage tests). -/
def selector (s : State) : Option Selector :=
  match s.phase with
  | .idle => none
  | .boundary => some (.last (lastByte (activeBuf s)))
  | .packet => some .packet
  | .flags => some (.flags ((s.frm.drop s.cur).take Config.flagsMaxBytes))
  | .pid => some (.pid s.fields.flags)
  | .route => some (.route s.fields.flags)
  | .api => some (.api s.fields.flags)
  | .timestamp => some (.timestamp s.fields.flags)
  | .size => some (.size s.fields.flags)
  | .dispatch => some (.dispatch s.fields.apiId)
  | .network => some (.payload s.fields.payloadSize (byteAtCursor s))
  | .entry => some (.entry (byteAtCursor s))
  | .address => some (.address (entryFlagByte s.entry))
  | .link => some (.link (byteAtCursor s))
  | .signature => some (.signature s.fields.flags)
  | .crc => some (.crc s.fields.flags)

/-- What the next step does. -/
inductive Fetched where
  /-- no FEED is in progress: the host's inputs are looked at -/
  | waiting
  /-- an operation runs -/
  | op (i : Instr)
  /-- the frame has no byte for the selector -/
  | short (why : SelectorFault)
deriving DecidableEq, Repr

def fetch (s : State) : Fetched :=
  match selector s with
  | none => .waiting
  | some sel =>
    match decode sel with
    | .op i => .op i
    | .short why => .short why

/-- The zero bytes that stand after a placed selector word, enough for the longest read and a qualifier. -/
def zeroOperands : List Byte := List.replicate 8 0#8

/-- The frame and cursor of a placed selector: the bytes `front` and then zeros, read from the start. -/
def placeFrame (front : List Byte) (s : State) : State := { s with frm := front ++ zeroOperands, cur := 0 }

/-- A stage that looks at the flags word, about to look at `f`. -/
def placeFlagsWord (next : Phase) (f : FlagsWord) (s : State) : State :=
  { placeFrame [] s with fields := { s.fields with flags := f }, phase := next }

/-- The state in which the next step looks at exactly this selector word (log 9). -/
def place (sel : Selector) (s : State) : State :=
  match sel with
  | .flags left =>
    if left.length < Config.flagsMaxBytes then { s with frm := left, cur := 0, phase := .flags }
    else { placeFrame left s with phase := .flags }
  | .pid f => placeFlagsWord .pid f s
  | .route f => placeFlagsWord .route f s
  | .api f => placeFlagsWord .api f s
  | .timestamp f => placeFlagsWord .timestamp f s
  | .size f => placeFlagsWord .size f s
  | .signature f => placeFlagsWord .signature f s
  | .crc f => placeFlagsWord .crc f s
  | .dispatch apiId => { placeFrame [] s with fields := { s.fields with apiId := apiId }, phase := .dispatch }
  | .payload declared tag =>
    { s with
      frm := match tag with | some t => t :: zeroOperands | none => [],
      cur := 0, fields := { s.fields with payloadSize := declared }, phase := .network }
  | .entry e => { s with frm := match e with | some b => b :: zeroOperands | none => [], cur := 0, phase := .entry }
  | .address e => { placeFrame [] s with entry := entryOfFlagByte e, phase := .address }
  | .link l => { s with frm := match l with | some b => b :: zeroOperands | none => [], cur := 0, phase := .link }
  | .packet => { placeFrame [] s with phase := .packet }
  | .last b => { updateActive (fun d => { d with buf := b.toList }) s with phase := .boundary }

end Sys2Proof.Machine
end

