-- ==== Sys2Proof/Machine/Step.lean ====
section
/-! DEFINITION. One step of the block: the operation that the selector word of the stage in progress picks; a read error where that
selector byte does not exist (log 10); an input of the host when no FEED is in progress. -/

namespace Sys2Proof.Machine

def step (s : State) : Host.Outcome State Fault Refusal :=
  match fetch s with
  | .waiting => takeInput s
  | .op i => exec i s
  | .short _ => raiseError .insufficientData s

/-- `s` with the word of one row of spec/opcode_table.json placed where the next step looks (log 9). -/
def State.withFetchWord (s : State) (nbits w : Nat) : State :=
  match tableSelector nbits w with
  | some sel => place sel s
  | none => s

end Sys2Proof.Machine
end

