-- ==== Sys2Proof/Machine/Transaction.lean ====
section
/-! DEFINITION. The block at the transaction level (00_scope.md R3): the entry points that the spec gives as pure functions of a
byte sequence and a position (R100, R120, R150, R170, R178, R184, R200) and FEED as one atomic transaction (R220). The steps of
Sys2Proof/Machine/Step.lean are one operation each; statements relate the two. -/

namespace Sys2Proof.Machine

/-- How a decode that gives no Packet ends: with an error (R254) or with a refusal (R182, R262). -/
inductive DecodeStop where
  | raised (k : ErrorKind)
  | refused (why : StopReason)
deriving DecidableEq, Repr

/-- A value, or the first error (R201). -/
abbrev Decode (α : Type) := Except DecodeStop α

/-- `Rd(n)` on the pair (`frm`, `cur`) of R12: the value and the new cursor. -/
def rd (frm : Memory) (n cur : Nat) : Decode (Nat × Nat) :=
  match memRead frm cur n with
  | some v => .ok (v, cur + n)
  | none => .error (.raised .insufficientData)

/-- The loop of R100: `left` iterations remain, `got` holds the flags bytes read so far. -/
def flagsLoop (frm : Memory) : Nat → List Byte → Nat → Decode (FlagsWord × BitVec 2 × Nat)
  | 0, _, _ => .error (.raised .malformedHeader)
  | left + 1, got, cur =>
    match frm[cur]? with
    | none => .error (.raised .malformedHeader)
    | some b =>
      let bytes := got ++ [b]
      if terminated b then
        .ok (packFlags (bytes.getD 0 0) (bytes.getD 1 0) (bytes.getD 2 0), BitVec.ofNat 2 bytes.length, cur + 1)
      else flagsLoop frm left bytes (cur + 1)

/-- `DecodeFlags` (R100): `F`, `FLEN` and the new cursor. -/
def decodeFlags (frm : Memory) (cur : Nat) : Decode (FlagsWord × BitVec 2 × Nat) :=
  flagsLoop frm Config.flagsMaxBytes [] cur

/-- The width in bytes of the API id field (R76). -/
def apiWidth (f : FlagsWord) : Nat := if flag f .api then (if flag f .api16 then 2 else 1) else 0

/-- The width in bytes of the timestamp field (R76). -/
def timestampWidth (f : FlagsWord) : Nat := if flag f .time then 6 else 0

/-- The width in bytes of the payload-size field: `[0, 4, 1, 2][sizelen0 * 2 + sizelen1]` (R72, R77). -/
def sizeWidth (f : FlagsWord) : Nat :=
  [0, 4, 1, 2].getD ((flag f .sizelen0).toNat * 2 + (flag f .sizelen1).toNat) 0

/-- `DecodeHeader` (R120): the header registers and the new cursor. A field of width 0 is not read and is 0. -/
def decodeHeader (frm : Memory) (cur : Nat) : Decode (Packet × Nat) := do
  let (f, flen, cur) ← decodeFlags frm cur
  let (pid, cur) ← rd frm 2 cur
  if flag f .routeset then .error (.raised .unsupportedRouteFormat) else
  let (a, cur) ← rd frm 1 cur
  let (b, cur) ← rd frm 1 cur
  let (c, cur) ← rd frm 1 cur
  let (d, cur) ← rd frm 1 cur
  let (apiId, cur) ← rd frm (apiWidth f) cur
  let (timestamp, cur) ← rd frm (timestampWidth f) cur
  let (payloadSize, cur) ← rd frm (sizeWidth f) cur
  .ok ({ Packet.blank with
    flags := f, flen := flen, pid := BitVec.ofNat 16 pid,
    route0 := ⟨BitVec.ofNat 16 a, BitVec.ofNat 16 b⟩, route1 := ⟨BitVec.ofNat 16 c, BitVec.ofNat 16 d⟩,
    apiId := BitVec.ofNat 16 apiId, timestamp := BitVec.ofNat 64 timestamp, payloadSize := BitVec.ofNat 32 payloadSize }, cur)

/-- `DecodeAddress` (R150): address, qualifier and the new cursor. -/
def decodeAddress (frm : Memory) (cur : Nat) (sizeMode : Bool) (addrSize : BitVec 2) :
    Decode (BitVec 32 × BitVec 8 × Nat) :=
  if sizeMode then do
    let (m, cur) ← rd frm 1 cur
    let qb := [0, 2, 4, 6].getD addrSize.toNat 0
    .ok (microAddress qb m, microQualifier qb m, cur)
  else do
    let (a, cur) ← rd frm (addrSize.toNat + 1) cur
    let (q, cur) ← rd frm 1 cur
    .ok (BitVec.ofNat 32 a, BitVec.ofNat 8 q, cur)

/-- `DecodeLinkInfo` (R179). -/
def decodeLinkInfo (l : Byte) : LinkInfo :=
  { packetSize := l.extractLsb' 0 3, speed := l.extractLsb' 3 3, dlOnly := l.getLsbD 6, halt := l.getLsbD 7 }

/-- `DecodeEntry` (R178): one neighbour entry and the new cursor. -/
def decodeEntry (frm : Memory) (cur : Nat) (ext : Bool) : Decode (Entry × Nat) := do
  let (e, cur) ← rd frm 1 cur
  let (age, cur) ← rd frm 1 cur
  let entry : Entry := { entryOfFlagByte (BitVec.ofNat 8 e) with age := BitVec.ofNat 8 age }
  let (address, qualifier, cur) ← decodeAddress frm cur entry.sizeMode entry.addrSize
  let entry : Entry := { entry with address := address, qualifier := qualifier }
  if ext then
    let (l, cur) ← rd frm 1 cur
    .ok ({ entry with link := some (decodeLinkInfo (BitVec.ofNat 8 l)) }, cur)
  else .ok (entry, cur)

/-- The entry loop of R170 and R176. Each entry reads at least 3 bytes (R183), so `fuel` beyond the bytes of the frame is never
used up; a loop without fuel would have run out of bytes. -/
def networkEntries (p : Params) (frm : Memory) (declared : Nat) (ext : Bool) :
    (fuel : Nat) → (entries : List Entry) → (consumed cur : Nat) → Decode (List Entry × Nat)
  | 0, _, _, _ => .error (.raised .insufficientData)
  | fuel + 1, entries, consumed, cur =>
    if consumed < declared then do
      let (e, cur') ← decodeEntry frm cur ext
      if entriesFull p entries then .error (.refused .entryCapExceeded)
      else networkEntries p frm declared ext fuel (entries ++ [e]) (consumed + (cur' - cur)) cur'
    else .ok (entries, cur)

/-- `DecodeNetwork` (R170): the tag, the entries and the new cursor. -/
def decodeNetwork (p : Params) (frm : Memory) (cur declared : Nat) : Decode (PayloadTag × List Entry × Nat) :=
  if declared = 0 then .ok (.ack, [], cur)
  else do
    let (tag, cur) ← rd frm 1 cur
    if tag = 0x01 then .ok (.requestBeacon, [], cur)
    else if tag = 0x00 then do
      let (entries, cur) ← networkEntries p frm declared false (frm.length + 1) [] 1 cur
      .ok (.beacon, entries, cur)
    else if tag = 0x05 then do
      let (entries, cur) ← networkEntries p frm declared true (frm.length + 1) [] 1 cur
      .ok (.extendedBeacon, entries, cur)
    else .error (.raised .unsupportedNetworkPacketType)

/-- `Dispatch` (R184). -/
def dispatchPayload (p : Params) (header : Packet) (frm : Memory) (cur : Nat) : Decode (PayloadTag × List Entry × Nat) :=
  if header.apiId = 0#16 then decodeNetwork p frm cur header.payloadSize.toNat
  else .error (.raised .unsupportedApi)

/-- The width in bytes of a trailer field (R85). -/
def trailerWidth (present : Bool) : Nat := if present then 2 else 0

/-- `DecodePacket` (R200), with the number of bytes that it read. -/
def decodePacketAt (p : Params) (frm : Memory) : Decode (Packet × Nat) := do
  let (header, cur) ← decodeHeader frm 0
  let (ptag, entries, cur) ← dispatchPayload p header frm cur
  let (signature, cur) ← rd frm (trailerWidth (flag header.flags .sgn)) cur
  let (crc, cur) ← rd frm (trailerWidth (flag header.flags .crc)) cur
  .ok ({ header with
    ptag := ptag, entries := entries, signature := BitVec.ofNat 16 signature, crcValue := BitVec.ofNat 16 crc }, cur)

/-- `DecodePacket` (R200). -/
def decodePacket (p : Params) (frm : Memory) : Decode Packet := (decodePacketAt p frm).map Prod.fst

/-- FEED (R220) as one transaction on stream number `k`, whose decoder is `d`: the decoder after it. -/
def feed (p : Params) (k : Nat) (d : Stream) (chunk : List Byte) : Stream :=
  if overBufCap p d.buf chunk then { d with response := none, stopped := some .bufferCapExceeded }
  else
    let buf := append d.buf chunk
    if lastByte buf = some Config.sentinel then
      match decodePacket p buf with
      | .ok packet => { d with buf := [], response := some (.produced packet) }
      | .error (.raised kind) => { d with buf := [], response := some (.decodeError kind) }
      | .error (.refused why) => { d with buf := [], response := none, stopped := some why }
    else growCap k { d with buf := buf, response := some .needMoreData }

end Sys2Proof.Machine
end

