-- ==== Sys2Proof/Machine/Wire.lean ====
section
/-! DEFINITION. The wire layout the other way (30_encoding.md R71, R72, R80 to R86): the frame of a Packet, and which Packets have
one. Written from the layout, beside the decoder and not from it. -/

namespace Sys2Proof.Machine

/-- The `n` bytes of a number on the wire, least significant first (R52, R86). -/
def leBytes : Nat → Nat → List Byte
  | 0, _ => []
  | n + 1, v => BitVec.ofNat 8 v :: leBytes n (v / 256)

/-- The flags bytes: the first `FLEN` of the three bytes of `F` (R73, R74). -/
def encodeFlags (f : FlagsWord) (flen : BitVec 2) : List Byte :=
  [f.extractLsb' 0 8, f.extractLsb' 8 8, f.extractLsb' 16 8].take flen.toNat

/-- The qualifier bits of the micro-mode byte, by `addr_size` (R82). -/
def qualifierBits (addrSize : BitVec 2) : Nat := 2 * addrSize.toNat

/-- `FMT_ADDR_NORMAL` or `FMT_ADDR_MICRO` (R81, R82). -/
def encodeAddress (e : Entry) : List Byte :=
  if e.sizeMode then [BitVec.ofNat 8 (e.address.toNat * 2 ^ qualifierBits e.addrSize + e.qualifier.toNat)]
  else leBytes (e.addrSize.toNat + 1) e.address.toNat ++ [e.qualifier]

/-- `FMT_LINKINFO` (R84), when there is one. -/
def encodeLink : Option LinkInfo → List Byte
  | none => []
  | some l => [encodeLinkByte l.packetSize l.speed l.dlOnly l.halt]

/-- `FMT_ENTRY` (R80). -/
def encodeEntry (e : Entry) : List Byte := [entryFlagByte e, e.age] ++ encodeAddress e ++ encodeLink e.link

/-- The width of an entry in bytes (R83). -/
def entryWidth (e : Entry) : Nat := 2 + (if e.sizeMode then 1 else e.addrSize.toNat + 2) + (if e.link.isSome then 1 else 0)

/-- `FMT_PAYLOAD` (R78, R79). -/
def encodePayload (p : Packet) : List Byte :=
  match p.ptag with
  | .ack => []
  | .requestBeacon => [0x01#8]
  | .beacon => 0x00#8 :: p.entries.flatMap encodeEntry
  | .extendedBeacon => 0x05#8 :: p.entries.flatMap encodeEntry

/-- The four route bytes: source system and subsystem, destination system and subsystem (R71). -/
def encodeRoute (p : Packet) : List Byte :=
  leBytes 1 p.route0.sys.toNat ++ leBytes 1 p.route0.sub.toNat ++ leBytes 1 p.route1.sys.toNat ++ leBytes 1 p.route1.sub.toNat

/-- `FMT_HEADER` (R72, R75). -/
def encodeHeader (p : Packet) : List Byte :=
  encodeFlags p.flags p.flen ++ leBytes 2 p.pid.toNat ++ encodeRoute p ++ leBytes (apiWidth p.flags) p.apiId.toNat
    ++ leBytes (timestampWidth p.flags) p.timestamp.toNat ++ leBytes (sizeWidth p.flags) p.payloadSize.toNat

/-- `FMT_TRAILER` (R85). -/
def encodeTrailer (p : Packet) : List Byte :=
  leBytes (trailerWidth (flag p.flags .sgn)) p.signature.toNat ++ leBytes (trailerWidth (flag p.flags .crc)) p.crcValue.toNat

/-- `FMT_FRAME` (R71), with its terminator. -/
def encodeFrame (p : Packet) : List Byte := encodeHeader p ++ encodePayload p ++ encodeTrailer p ++ [Config.sentinel]

/-- `FLEN` is the length that the terminator bits of `F` tell, and the bytes that are absent are 0 (R27, R73, R74). -/
def flagsOnWire (f : FlagsWord) (flen : BitVec 2) : Bool :=
  if flen = 1#2 then flag f .terminator0 && f.extractLsb' 8 16 == 0#16
  else if flen = 2#2 then !flag f .terminator0 && flag f .terminator1 && f.extractLsb' 16 8 == 0#8
  else if flen = 3#2 then !flag f .terminator0 && !flag f .terminator1 && flag f .terminator2
  else false

/-- The address and qualifier fit the encoding that `size_mode` and `addr_size` pick (R81, R82). -/
def addressOnWire (e : Entry) : Bool :=
  if e.sizeMode then
    decide (e.address.toNat < 2 ^ (8 - qualifierBits e.addrSize)) && decide (e.qualifier.toNat < 2 ^ qualifierBits e.addrSize)
  else decide (e.address.toNat < 256 ^ (e.addrSize.toNat + 1))

/-- The payload is one that the layout has: `declared_size` is 0 for `Ack`, 1 for `RequestBeacon` (R292), and 1 plus the sum of
the entry widths for the two beacons (R291), whose entries have a LinkInfo byte exactly under `ExtendedBeacon` (R79). -/
def payloadOnWire (p : Packet) : Bool :=
  match p.ptag with
  | .ack => p.payloadSize.toNat == 0 && p.entries.isEmpty
  | .requestBeacon => p.payloadSize.toNat == 1 && p.entries.isEmpty
  | .beacon => p.payloadSize.toNat == 1 + (p.entries.map entryWidth).sum
      && p.entries.all (fun e => addressOnWire e && e.link.isNone)
  | .extendedBeacon => p.payloadSize.toNat == 1 + (p.entries.map entryWidth).sum
      && p.entries.all (fun e => addressOnWire e && e.link.isSome)

/-- The Packet has a frame: every register fits the field that carries it, an absent field is 0, and no selector picks an
unsupported format (R87). -/
def packetOnWire (p : Packet) : Bool :=
  flagsOnWire p.flags p.flen && !flag p.flags .routeset
    && decide (p.route0.sys.toNat < 256) && decide (p.route0.sub.toNat < 256)
    && decide (p.route1.sys.toNat < 256) && decide (p.route1.sub.toNat < 256)
    && p.apiId == 0#16
    && decide (p.timestamp.toNat < 256 ^ timestampWidth p.flags)
    && decide (p.payloadSize.toNat < 256 ^ sizeWidth p.flags)
    && payloadOnWire p
    && (flag p.flags .sgn || p.signature == 0#16) && (flag p.flags .crc || p.crcValue == 0#16)

end Sys2Proof.Machine
end

