-- ==== Sys2Proof/Safety.lean ====
section
/-! DEFINITION. The terms that statements use: bytes seen from the cursor, the record after an entry, and what must hold of a state
between and during FEEDs. -/

namespace Sys2Proof.Machine

/-- The byte `i` places after the cursor (0 where the frame has none). -/
def byteAt (s : State) (i : Nat) : Byte := s.frm.getD (s.cur + i) 0

/-- At least `n` bytes are left in the frame: R12, "the bytes available are `len(frm) - cur`". -/
abbrev available (s : State) (n : Nat) : Prop := s.cur + n ≤ s.frm.length

/-- A capacity, where there is one, is not exceeded (R7). -/
def withinCap (cap : Option Nat) (n : Nat) : Bool :=
  match cap with
  | none => true
  | some c => decide (n ≤ c)

/-- The state after one pass of the entry loop that appended `e` and left the cursor at `cur` (R170, R176, R180). -/
def afterEntry (e : Entry) (cur : Nat) (s : State) : State :=
  { s with
    cur := cur,
    entry := e,
    fields := { s.fields with entries := s.fields.entries ++ [e] },
    consumed := s.consumed + (cur - s.start),
    phase := if s.consumed + (cur - s.start) < s.fields.payloadSize.toNat then .entry else .signature }

/-- A frame is being decoded: it has been handed over, and its FEED has not returned. -/
def decoding : Phase → Bool
  | .idle | .boundary => false
  | .packet | .flags | .pid | .route | .api | .timestamp | .size | .dispatch | .network | .entry | .address | .link
  | .signature | .crc => true

/-- The frame, the cursor and every field register are at rest (R22, R26, R254; log 2). -/
abbrev AtRest (s : State) : Prop :=
  s.frm = [] ∧ s.cur = 0 ∧ s.fields = Packet.blank ∧ s.entry = Entry.blank ∧ s.consumed = 0 ∧ s.start = 0

/-- R226: between FEEDs every buffer is empty or does not end in the sentinel. While a boundary test is due, the buffer it tests
is the one exception. -/
abbrev BuffersSynchronised (s : State) : Prop :=
  ∀ d ∈ (if s.phase = .boundary then s.streams.eraseIdx s.active else s.streams), lastByte d.buf ≠ some Config.sentinel

/-- R21 and R32: no buffer is longer than `BUF_CAP`, and the entry list is no longer than `ENTRY_CAP`. -/
abbrev WithinCapacities (s : State) : Prop :=
  (∀ d ∈ s.streams, withinCap s.params.bufCap d.buf.length = true) ∧
    withinCap s.params.entryCap s.fields.entries.length = true

/-- While a frame is decoded its snapshot ends in the sentinel (R58, R231), the cursor is inside it (R25), and the buffer it came
from is empty (R223); otherwise the decode registers are at rest. -/
abbrev SnapshotSound (s : State) : Prop :=
  if decoding s.phase then lastByte s.frm = some Config.sentinel ∧ s.cur ≤ s.frm.length ∧ activeBuf s = []
  else AtRest s

/-- What R27 and R31 to R33 say of the field registers at every stage, whatever frame is decoded: the absent flags bytes are 0, the
route ids and the timestamp have their high bits 0, only a beacon has entries, and an entry has a LinkInfo record iff the tag is
`ExtendedBeacon`. `FLEN` 0 is the value before the flags decode (log 2); a Packet that is answered never has it (`answerDecoded`). -/
def packetShape (p : Packet) : Bool :=
  (flagsOnWire p.flags p.flen || (p.flen == 0#2 && p.flags == 0#24))
    && decide (p.route0.sys.toNat < 256) && decide (p.route0.sub.toNat < 256)
    && decide (p.route1.sys.toNat < 256) && decide (p.route1.sub.toNat < 256)
    && decide (p.timestamp.toNat < 2 ^ 48)
    && (match p.ptag with
        | .ack | .requestBeacon => p.entries.isEmpty
        | .beacon => p.entries.all (fun e => e.link.isNone)
        | .extendedBeacon => p.entries.all (fun e => e.link.isSome))

/-! What the stages passed so far have settled, each on top of the one before. -/

/-- `FLEN` is 1, 2 or 3, and `F` has the terminator bits of that length and 0 in its absent bytes (R27, R29, R30). -/
def flagsDecoded (p : Packet) : Bool := flagsOnWire p.flags p.flen

/-- The route format was the standard one (R124). -/
def routeDecoded (p : Packet) : Bool := flagsDecoded p && !flag p.flags .routeset

/-- The API id fits its field, and an absent one is 0 (R126 to R128). -/
def apiDecoded (p : Packet) : Bool := routeDecoded p && decide (p.apiId.toNat < 256 ^ apiWidth p.flags)

/-- The timestamp fits its field, and an absent one is 0 (R129, R130). -/
def timestampDecoded (p : Packet) : Bool := apiDecoded p && decide (p.timestamp.toNat < 256 ^ timestampWidth p.flags)

/-- The payload size fits its field, and an absent one is 0 (R132 to R135). -/
def headerDecoded (p : Packet) : Bool := timestampDecoded p && decide (p.payloadSize.toNat < 256 ^ sizeWidth p.flags)

/-- The payload is a network payload (R185, R186). -/
def networkDispatched (p : Packet) : Bool := headerDecoded p && p.apiId == 0#16

/-- An absent signature is 0 (R36, R202). -/
def signatureDecoded (p : Packet) : Bool := networkDispatched p && (flag p.flags .sgn || p.signature == 0#16)

/-- A whole Packet: an absent CRC is 0 as well (R36, R203). -/
def answerDecoded (p : Packet) : Bool := signatureDecoded p && (flag p.flags .crc || p.crcValue == 0#16)

/-- What the stages before the one in progress have settled. The stages of one entry run under a beacon tag, NET.LINKINFO only under
`ExtendedBeacon` (R178, R179), and the entry has no LinkInfo record before its LinkInfo byte is read. -/
def stageShape (s : State) : Bool :=
  match s.phase with
  | .idle | .boundary | .packet | .flags => true
  | .pid | .route => flagsDecoded s.fields
  | .api => routeDecoded s.fields
  | .timestamp => apiDecoded s.fields
  | .size => timestampDecoded s.fields
  | .dispatch => headerDecoded s.fields
  | .network | .signature => networkDispatched s.fields
  | .entry => networkDispatched s.fields && (s.fields.ptag == .beacon || s.fields.ptag == .extendedBeacon)
  | .address =>
    networkDispatched s.fields && (s.fields.ptag == .beacon || s.fields.ptag == .extendedBeacon) && s.entry.link.isNone
  | .link => networkDispatched s.fields && s.fields.ptag == .extendedBeacon
  | .crc => signatureDecoded s.fields

/-- A response that carries a Packet carries one of the right shape, with every field settled. -/
def responseShape : Option Response → Bool
  | some (.produced p) => packetShape p && answerDecoded p
  | _ => true

/-- The registers have the shape that the spec gives them, in the decode and in every response. -/
abbrev RegistersShaped (s : State) : Prop :=
  packetShape s.fields = true ∧ stageShape s = true ∧ ∀ d ∈ s.streams, responseShape d.response = true

/-- The stream a host input names. -/
def inputStream : Input → Nat
  | .feed k _ => k
  | .reset k => k

end Sys2Proof.Machine
end

