-- ==== Sys2Proof/Certificates/Slice0/Obligations.lean ====
section
/-! DEFINITION. The statements for the provers. Each docstring names the rules of spec/ that it formalises. Where a state's record is
written out with `with`, every field that is not named is unchanged: the statement of a result is its frame as well. -/

open Sys2Proof Sys2Proof.Machine

/-! ### Reset and the host's inputs -/

/-- R280: reset leaves every buffer empty and no response pending, and a reset asked for between FEEDs changes nothing else.
What the decode registers hold at rest is the model's choice (log 2). -/
def Obligations.ResetEmptiesBuffers : Prop :=
  (∀ (p : Params) (n : Nat), ∀ d ∈ (State.built p n).streams, d.buf = [] ∧ d.response = none) ∧
  (∀ (p : Params) (n : Nat), (State.built p n).streams.length = n ∧ (State.built p n).phase = .idle ∧ AtRest (State.built p n)) ∧
  ∀ (s : State) (k : Nat) (rest : List Input), s.phase = .idle → s.inputs = .reset k :: rest → k < s.streams.length →
    step s = .next { s with
      inputs := rest, streams := s.streams.modify k (fun d => { d with buf := [], response := none }) }

/-- R221 and R229 as the block takes a chunk: the capacity test comes first and leaves the buffer as it was, then the chunk is
appended behind the buffered bytes, and the boundary test is next. The mark of a refused stream is the model's form of R262 (log 6). -/
def Obligations.FeedAppendsOrRefusesChunk : Prop :=
  ∀ (s : State) (k : Nat) (chunk : List Byte) (rest : List Input) (d : Stream),
    s.phase = .idle → s.inputs = .feed k chunk :: rest → s.streams[k]? = some d → d.stopped = none →
    (withinCap s.params.bufCap (d.buf.length + chunk.length) = true →
      step s = .next { s with
        inputs := rest, active := k, phase := .boundary,
        streams := s.streams.modify k (fun d => { d with buf := d.buf ++ chunk, response := none }) }) ∧
    (withinCap s.params.bufCap (d.buf.length + chunk.length) = false →
      ∃ t, step s = .next t ∧ AtRest t ∧ t.phase = .idle ∧ t.inputs = rest ∧ t.params = s.params ∧
        t.streams = s.streams.modify k (fun d => { d with response := none, stopped := some .bufferCapExceeded }))

/-- R262 and the model's choices of log 6 and log 8: a stopped stream is never fed again, and a stream that does not exist is no
target. -/
def Obligations.FeedOfStoppedStreamHasNoMeaning : Prop :=
  (∀ (s : State) (k : Nat) (chunk : List Byte) (rest : List Input) (d : Stream) (why : StopReason),
    s.phase = .idle → s.inputs = .feed k chunk :: rest → s.streams[k]? = some d → d.stopped = some why →
    step s = .refused (.streamStopped why)) ∧
  (∀ (s : State) (i : Input) (rest : List Input), s.phase = .idle → s.inputs = i :: rest →
    s.streams.length ≤ inputStream i → step s = .fault .noSuchStream) ∧
  ∀ (s : State), s.phase = .idle → s.inputs = [] → step s = .next s

/-! ### Selectors: decoding and encoding -/

/-- Decoding the encoding of a well-formed operation gives it back, with every operand at every value. -/
def Obligations.DecodeOfEncodeIsIdentity : Prop :=
  ∀ i : Instr, i.wellFormed = true → decode (encode i) = .op i

/-- The decoder gives well-formed operations only. -/
def Obligations.DecodedOperationIsWellFormed : Prop :=
  ∀ (sel : Selector) (i : Instr), decode sel = .op i → i.wellFormed = true

/-- R89 with the match, mask and condition of every row of spec/opcode_table.json whose selector is a register or a payload byte. -/
def Obligations.SelectorsFollowOpcodeTable : Prop :=
  (∀ f : FlagsWord, decode (.pid f) = .op .hdrPid) ∧
  (∀ f : FlagsWord, (decode (.route f) = .op .hdrRoute ↔ f &&& 0x000040#24 = 0x000000#24) ∧
    (decode (.route f) = .op .hdrRouteAlt ↔ f &&& 0x000040#24 = 0x000040#24)) ∧
  (∀ f : FlagsWord, (decode (.api f) = .op .hdrApiNone ↔ f &&& 0x000004#24 = 0x000000#24) ∧
    (decode (.api f) = .op .hdrApi8 ↔ f &&& 0x004004#24 = 0x000004#24) ∧
    (decode (.api f) = .op .hdrApi16 ↔ f &&& 0x004004#24 = 0x004004#24)) ∧
  (∀ f : FlagsWord, (decode (.timestamp f) = .op .hdrTsNone ↔ f &&& 0x001000#24 = 0x000000#24) ∧
    (decode (.timestamp f) = .op .hdrTs48 ↔ f &&& 0x001000#24 = 0x001000#24)) ∧
  (∀ f : FlagsWord, (decode (.size f) = .op .hdrSize0 ↔ f &&& 0x002020#24 = 0x000000#24) ∧
    (decode (.size f) = .op .hdrSize32 ↔ f &&& 0x002020#24 = 0x002000#24) ∧
    (decode (.size f) = .op .hdrSize8 ↔ f &&& 0x002020#24 = 0x000020#24) ∧
    (decode (.size f) = .op .hdrSize16 ↔ f &&& 0x002020#24 = 0x002020#24)) ∧
  (∀ f : FlagsWord, (decode (.signature f) = .op (.pktSgn true) ↔ f &&& 0x000100#24 = 0x000100#24) ∧
    (decode (.signature f) = .op (.pktSgn false) ↔ f &&& 0x000100#24 = 0x000000#24) ∧
    (decode (.crc f) = .op (.pktCrc true) ↔ f &&& 0x000200#24 = 0x000200#24) ∧
    (decode (.crc f) = .op (.pktCrc false) ↔ f &&& 0x000200#24 = 0x000000#24)) ∧
  (∀ e : Byte, (decode (.address e) = .op .addrN8 ↔ e &&& 0x38#8 = 0x00#8) ∧
    (decode (.address e) = .op .addrN16 ↔ e &&& 0x38#8 = 0x08#8) ∧
    (decode (.address e) = .op .addrN24 ↔ e &&& 0x38#8 = 0x10#8) ∧
    (decode (.address e) = .op .addrN32 ↔ e &&& 0x38#8 = 0x18#8) ∧
    (decode (.address e) = .op .addrM8_0 ↔ e &&& 0x38#8 = 0x20#8) ∧
    (decode (.address e) = .op .addrM6_2 ↔ e &&& 0x38#8 = 0x28#8) ∧
    (decode (.address e) = .op .addrM4_4 ↔ e &&& 0x38#8 = 0x30#8) ∧
    (decode (.address e) = .op .addrM2_6 ↔ e &&& 0x38#8 = 0x38#8)) ∧
  (∀ a : BitVec 16, (decode (.dispatch a) = .op .dispatchNet ↔ a = 0#16) ∧
    (decode (.dispatch a) = .op (.dispatchUnsupported a) ↔ a ≠ 0#16)) ∧
  (∀ (n : BitVec 32) (t : Option Byte), decode (.payload n t) = .op .netAck ↔ n = 0#32) ∧
  (∀ (n : BitVec 32) (t : Byte), n ≠ 0#32 →
    (decode (.payload n (some t)) = .op .netBeacon ↔ t = 0x00#8) ∧
    (decode (.payload n (some t)) = .op .netReqBeacon ↔ t = 0x01#8) ∧
    (decode (.payload n (some t)) = .op .netExtBeacon ↔ t = 0x05#8) ∧
    (decode (.payload n (some t)) = .op (.netBadTag t) ↔ t ≠ 0x00#8 ∧ t ≠ 0x01#8 ∧ t ≠ 0x05#8)) ∧
  ∀ b : Option Byte, (decode (.last b) = .op .feedFrame ↔ b = some 0xC0#8) ∧
    (decode (.last b) = .op (.feedNeedMore b) ↔ b ≠ some 0xC0#8)

/-- R73: the length of the flags field is told by the terminator bits alone. -/
def Obligations.FlagsLengthByTerminatorBits : Prop :=
  (∀ (b1 : Byte) (more : List Byte), b1.getLsbD 7 = true → decode (.flags (b1 :: more)) = .op (.flagsLen1 b1)) ∧
  (∀ (b1 b2 : Byte) (more : List Byte), b1.getLsbD 7 = false → b2.getLsbD 7 = true →
    decode (.flags (b1 :: b2 :: more)) = .op (.flagsLen2 b1 b2)) ∧
  (∀ (b1 b2 b3 : Byte) (more : List Byte), b1.getLsbD 7 = false → b2.getLsbD 7 = false → b3.getLsbD 7 = true →
    decode (.flags (b1 :: b2 :: b3 :: more)) = .op (.flagsLen3 b1 b2 b3)) ∧
  (∀ (b1 b2 b3 : Byte) (more : List Byte), b1.getLsbD 7 = false → b2.getLsbD 7 = false → b3.getLsbD 7 = false →
    decode (.flags (b1 :: b2 :: b3 :: more)) = .op (.flagsUnterminated b1 b2 b3)) ∧
  (∀ left : List Byte, left.length < 3 → (∀ b ∈ left, b.getLsbD 7 = false) → decode (.flags left) = .op (.flagsShort left)) ∧
  ∀ (s : State) (b1 b2 b3 : Byte) (left : List Byte),
    exec (.flagsUnterminated b1 b2 b3) s = .next (respond (.decodeError .malformedHeader) s) ∧
    exec (.flagsShort left) s = .next (respond (.decodeError .malformedHeader) s)

/-- Words written out from the spec's encodings (R73, R76, R77, R79, R80, R81, R82, R84, R85). A sanity statement. -/
def Obligations.WrittenWordsDecode : Prop :=
  decode (.flags [0x21#8, 0x9A#8, 0xA7#8]) = .op (.flagsLen2 0x21#8 0x9A#8) ∧
  decode (.size 0x009A21#24) = .op .hdrSize8 ∧
  decode (.api 0x00C004#24) = .op .hdrApi16 ∧
  decode (.timestamp 0x009A21#24) = .op .hdrTs48 ∧
  decode (.crc 0x009A21#24) = .op (.pktCrc true) ∧
  decode (.dispatch 7#16) = .op (.dispatchUnsupported 7#16) ∧
  decode (.payload 5#32 (some 0x05#8)) = .op .netExtBeacon ∧
  decode (.entry (some 0x70#8)) = .op (.netEntry false true true 2#2 0#3) ∧
  decode (.address 0x70#8) = .op .addrM4_4 ∧
  decode (.link (some 0xBF#8)) = .op (.netLinkInfo 7#3 7#3 false true) ∧
  decode (.last (some 0xC0#8)) = .op .feedFrame

/-- A step is the operation that the decoder reads from the selector word; where the selector byte is missing it is a read error;
with no selector (the block is idle) it is an input of the host. One operation a step is the model's granularity (log 1), and the read
error its reading of R172, R178 and R179 (log 10). -/
def Obligations.StepRunsDecodedOperation : Prop :=
  (∀ (s : State) (sel : Selector) (i : Instr), selector s = some sel → decode sel = .op i → step s = exec i s) ∧
  (∀ (s : State) (sel : Selector) (why : SelectorFault), selector s = some sel → decode sel = .short why →
    step s = .next (respond (.decodeError .insufficientData) s)) ∧
  ∀ s : State, selector s = none → step s = takeInput s

/-- The host's reading of a table word (log 9): the word is placed where the next step looks, and that step runs what it decodes to. -/
def Obligations.TableWordRunsNext : Prop :=
  ∀ (s : State) (nbits w : Nat) (i : Instr), s.active < s.streams.length → decodeTableWord nbits w = some i →
    step (s.withFetchWord nbits w) = exec i (s.withFetchWord nbits w)

/-! ### Header flags -/

/-- R101, R102, R103: the three flags operations write `F` and `FLEN` and move past their bytes; the bits of an absent byte are 0 (R27).
Two clauses are the model's choice (log 16): `F` is written from the operands, the bytes that the decoder saw, and with too few bytes
left, which no step meets, the header is malformed, as R25 and R104 have it for the flags reads. -/
def Obligations.FlagsOperationsWriteFlagsWord : Prop :=
  ∀ (s : State) (b1 b2 b3 : Byte),
    (available s 1 → exec (.flagsLen1 b1) s = .next { s with
      cur := s.cur + 1, fields := { s.fields with flags := 0x0000#16 ++ b1, flen := 1#2 }, phase := .pid }) ∧
    (available s 2 → exec (.flagsLen2 b1 b2) s = .next { s with
      cur := s.cur + 2, fields := { s.fields with flags := 0x00#8 ++ b2 ++ b1, flen := 2#2 }, phase := .pid }) ∧
    (available s 3 → exec (.flagsLen3 b1 b2 b3) s = .next { s with
      cur := s.cur + 3, fields := { s.fields with flags := b3 ++ b2 ++ b1, flen := 3#2 }, phase := .pid }) ∧
    (¬ available s 1 → exec (.flagsLen1 b1) s = .next (respond (.decodeError .malformedHeader) s)) ∧
    (¬ available s 2 → exec (.flagsLen2 b1 b2) s = .next (respond (.decodeError .malformedHeader) s)) ∧
    (¬ available s 3 → exec (.flagsLen3 b1 b2 b3) s = .next (respond (.decodeError .malformedHeader) s))

/-- R100 (with R101 to R105) as one step of the block on the bytes at the cursor. -/
def Obligations.FlagsStepFollowsTerminatorChain : Prop :=
  ∀ s : State, s.phase = .flags →
    (available s 1 → (byteAt s 0).getLsbD 7 = true →
      step s = .next { s with
        cur := s.cur + 1, fields := { s.fields with flags := 0x0000#16 ++ byteAt s 0, flen := 1#2 }, phase := .pid }) ∧
    (available s 2 → (byteAt s 0).getLsbD 7 = false → (byteAt s 1).getLsbD 7 = true →
      step s = .next { s with
        cur := s.cur + 2,
        fields := { s.fields with flags := 0x00#8 ++ byteAt s 1 ++ byteAt s 0, flen := 2#2 }, phase := .pid }) ∧
    (available s 3 → (byteAt s 0).getLsbD 7 = false → (byteAt s 1).getLsbD 7 = false → (byteAt s 2).getLsbD 7 = true →
      step s = .next { s with
        cur := s.cur + 3,
        fields := { s.fields with flags := byteAt s 2 ++ byteAt s 1 ++ byteAt s 0, flen := 3#2 }, phase := .pid }) ∧
    (available s 3 → (byteAt s 0).getLsbD 7 = false → (byteAt s 1).getLsbD 7 = false → (byteAt s 2).getLsbD 7 = false →
      step s = .next (respond (.decodeError .malformedHeader) s)) ∧
    (∀ n : Nat, n < 3 → s.frm.length ≤ s.cur + n → (∀ j : Nat, j < n → (byteAt s j).getLsbD 7 = false) →
      step s = .next (respond (.decodeError .malformedHeader) s))

/-- R231, which the spec marks as its own inference: a frame that ends in the sentinel never cuts the flags chain short,
so its only `MalformedHeader` is three bytes with no terminator bit. -/
def Obligations.FramedFlagsAreNeverShort : Prop :=
  ∀ frm : Memory, lastByte frm = some Config.sentinel →
    (∀ left : List Byte, decode (.flags (frm.take 3)) ≠ .op (.flagsShort left)) ∧
    (∀ k : DecodeStop, decodeFlags frm 0 = .error k →
      k = .raised .malformedHeader ∧ 3 ≤ frm.length ∧ ∀ j : Nat, j < 3 → (frm.getD j 0).getLsbD 7 = false)

/-! ### Header fields -/

/-- R121: the PID is read whatever the flags are. -/
def Obligations.PidReadUnconditionally : Prop :=
  ∀ s : State,
    (available s 2 → exec .hdrPid s = .next { s with
      cur := s.cur + 2, fields := { s.fields with pid := byteAt s 1 ++ byteAt s 0 }, phase := .route }) ∧
    (¬ available s 2 → exec .hdrPid s = .next (respond (.decodeError .insufficientData) s)) ∧
    (s.phase = .pid → step s = exec .hdrPid s)

/-- R123: four route bytes, each zero-extended to 16 bits. -/
def Obligations.RouteReadAsFourBytes : Prop :=
  ∀ s : State,
    (available s 4 → exec .hdrRoute s = .next { s with
      cur := s.cur + 4,
      fields := { s.fields with
        route0 := { sys := (byteAt s 0).setWidth 16, sub := (byteAt s 1).setWidth 16 },
        route1 := { sys := (byteAt s 2).setWidth 16, sub := (byteAt s 3).setWidth 16 } },
      phase := .api }) ∧
    (¬ available s 4 → exec .hdrRoute s = .next (respond (.decodeError .insufficientData) s)) ∧
    (s.phase = .route → s.fields.flags.getLsbD 6 = false → step s = exec .hdrRoute s)

/-- R122 and R124: `routeset = 1` is refused as a route format, whatever bytes follow. -/
def Obligations.AlternateRouteIsUnsupported : Prop :=
  ∀ s : State,
    exec .hdrRouteAlt s = .next (respond (.decodeError .unsupportedRouteFormat) s) ∧
    (s.phase = .route → s.fields.flags.getLsbD 6 = true →
      step s = .next (respond (.decodeError .unsupportedRouteFormat) s)) ∧
    (s.phase = .route → s.fields.flags.getLsbD 6 = false → step s = exec .hdrRoute s)

/-- R126, R127, R128: the API id by its width. -/
def Obligations.ApiIdByWidth : Prop :=
  ∀ s : State,
    exec .hdrApiNone s = .next { s with fields := { s.fields with apiId := 0#16 }, phase := .timestamp } ∧
    (available s 1 → exec .hdrApi8 s = .next { s with
      cur := s.cur + 1, fields := { s.fields with apiId := (byteAt s 0).setWidth 16 }, phase := .timestamp }) ∧
    (available s 2 → exec .hdrApi16 s = .next { s with
      cur := s.cur + 2, fields := { s.fields with apiId := byteAt s 1 ++ byteAt s 0 }, phase := .timestamp }) ∧
    (¬ available s 1 → exec .hdrApi8 s = .next (respond (.decodeError .insufficientData) s)) ∧
    (¬ available s 2 → exec .hdrApi16 s = .next (respond (.decodeError .insufficientData) s)) ∧
    (s.phase = .api → s.fields.flags.getLsbD 2 = false → step s = exec .hdrApiNone s) ∧
    (s.phase = .api → s.fields.flags.getLsbD 2 = true → s.fields.flags.getLsbD 14 = false → step s = exec .hdrApi8 s) ∧
    (s.phase = .api → s.fields.flags.getLsbD 2 = true → s.fields.flags.getLsbD 14 = true → step s = exec .hdrApi16 s)

/-- R129, R130: the timestamp is 0 or the 48-bit little-endian value of six bytes, zero-extended. -/
def Obligations.TimestampByTimeFlag : Prop :=
  ∀ s : State,
    exec .hdrTsNone s = .next { s with fields := { s.fields with timestamp := 0#64 }, phase := .size } ∧
    (available s 6 → exec .hdrTs48 s = .next { s with
      cur := s.cur + 6,
      fields := { s.fields with timestamp :=
        (byteAt s 5 ++ byteAt s 4 ++ byteAt s 3 ++ byteAt s 2 ++ byteAt s 1 ++ byteAt s 0).setWidth 64 },
      phase := .size }) ∧
    (¬ available s 6 → exec .hdrTs48 s = .next (respond (.decodeError .insufficientData) s)) ∧
    (s.phase = .timestamp → s.fields.flags.getLsbD 12 = false → step s = exec .hdrTsNone s) ∧
    (s.phase = .timestamp → s.fields.flags.getLsbD 12 = true → step s = exec .hdrTs48 s)

/-- R132 to R135: the payload size by its selector. -/
def Obligations.PayloadSizeBySelector : Prop :=
  ∀ s : State,
    exec .hdrSize0 s = .next { s with fields := { s.fields with payloadSize := 0#32 }, phase := .dispatch } ∧
    (available s 4 → exec .hdrSize32 s = .next { s with
      cur := s.cur + 4,
      fields := { s.fields with payloadSize := byteAt s 3 ++ byteAt s 2 ++ byteAt s 1 ++ byteAt s 0 },
      phase := .dispatch }) ∧
    (available s 1 → exec .hdrSize8 s = .next { s with
      cur := s.cur + 1, fields := { s.fields with payloadSize := (byteAt s 0).setWidth 32 }, phase := .dispatch }) ∧
    (available s 2 → exec .hdrSize16 s = .next { s with
      cur := s.cur + 2, fields := { s.fields with payloadSize := (byteAt s 1 ++ byteAt s 0).setWidth 32 },
      phase := .dispatch }) ∧
    (¬ available s 4 → exec .hdrSize32 s = .next (respond (.decodeError .insufficientData) s)) ∧
    (¬ available s 1 → exec .hdrSize8 s = .next (respond (.decodeError .insufficientData) s)) ∧
    (¬ available s 2 → exec .hdrSize16 s = .next (respond (.decodeError .insufficientData) s)) ∧
    (s.phase = .size → s.fields.flags.getLsbD 5 = false → s.fields.flags.getLsbD 13 = false → step s = exec .hdrSize0 s) ∧
    (s.phase = .size → s.fields.flags.getLsbD 5 = false → s.fields.flags.getLsbD 13 = true → step s = exec .hdrSize32 s) ∧
    (s.phase = .size → s.fields.flags.getLsbD 5 = true → s.fields.flags.getLsbD 13 = false → step s = exec .hdrSize8 s) ∧
    (s.phase = .size → s.fields.flags.getLsbD 5 = true → s.fields.flags.getLsbD 13 = true → step s = exec .hdrSize16 s)

/-- R138: for each selector and each value that fits its width, writing the value little-endian at the cursor and running the size
operation that the selector picks gives the value. -/
def Obligations.PayloadSizeRoundTrip : Prop :=
  ∀ (s : State) (front back : List Byte) (v : Nat), s.phase = .size → s.cur = front.length →
    s.frm = front ++ (leBytes (sizeWidth s.fields.flags) v ++ back) → v < 256 ^ sizeWidth s.fields.flags →
    ∃ t, step s = .next t ∧ t.fields.payloadSize.toNat = v ∧ t.cur = s.cur + sizeWidth s.fields.flags

/-- R137 with the offsets of R72 and the widths of R76 and R77: a header that decodes ends at the first payload byte, and each of its
fields is the little-endian value of the bytes at its offset (an absent field has no bytes and is 0). -/
def Obligations.HeaderEndsAtPayloadOffset : Prop :=
  ∀ (frm : Memory) (cur cur' : Nat) (h : Packet), decodeHeader frm cur = .ok (h, cur') →
    cur' = cur + h.flen.toNat + 2 + 4 + apiWidth h.flags + timestampWidth h.flags + sizeWidth h.flags ∧
    cur' ≤ frm.length ∧ 1 ≤ h.flen.toNat ∧ flagsOnWire h.flags h.flen = true ∧
    h.flags.toNat = leNat ((frm.drop cur).take h.flen.toNat) ∧
    h.pid.toNat = leNat ((frm.drop (cur + h.flen.toNat)).take 2) ∧
    h.route0.sys.toNat = leNat ((frm.drop (cur + h.flen.toNat + 2)).take 1) ∧
    h.route0.sub.toNat = leNat ((frm.drop (cur + h.flen.toNat + 3)).take 1) ∧
    h.route1.sys.toNat = leNat ((frm.drop (cur + h.flen.toNat + 4)).take 1) ∧
    h.route1.sub.toNat = leNat ((frm.drop (cur + h.flen.toNat + 5)).take 1) ∧
    h.apiId.toNat = leNat ((frm.drop (cur + h.flen.toNat + 6)).take (apiWidth h.flags)) ∧
    h.timestamp.toNat = leNat ((frm.drop (cur + h.flen.toNat + 6 + apiWidth h.flags)).take (timestampWidth h.flags)) ∧
    h.payloadSize.toNat =
      leNat ((frm.drop (cur + h.flen.toNat + 6 + apiWidth h.flags + timestampWidth h.flags)).take (sizeWidth h.flags))

/-! ### Addresses -/

/-- R151 to R154: `addr_size + 1` little-endian address bytes, zero-extended, and always one qualifier byte. An `ExtendedBeacon`
entry goes on to its LinkInfo byte, a `Beacon` entry is complete. -/
def Obligations.NormalAddressForms : Prop :=
  ∀ s : State,
    (∀ (i : Instr) (n : Nat) (a : BitVec 32),
      ((i = .addrN8 ∧ n = 1 ∧ a = (byteAt s 0).setWidth 32) ∨
        (i = .addrN16 ∧ n = 2 ∧ a = (byteAt s 1 ++ byteAt s 0).setWidth 32) ∨
        (i = .addrN24 ∧ n = 3 ∧ a = (byteAt s 2 ++ byteAt s 1 ++ byteAt s 0).setWidth 32) ∨
        (i = .addrN32 ∧ n = 4 ∧ a = byteAt s 3 ++ byteAt s 2 ++ byteAt s 1 ++ byteAt s 0)) →
      available s (n + 1) →
      (s.fields.ptag = .extendedBeacon → exec i s = .next { s with
        cur := s.cur + (n + 1), entry := { s.entry with address := a, qualifier := byteAt s n }, phase := .link }) ∧
      (s.fields.ptag ≠ .extendedBeacon → withinCap s.params.entryCap (s.fields.entries.length + 1) = true →
        exec i s = .next (afterEntry { s.entry with address := a, qualifier := byteAt s n } (s.cur + (n + 1)) s)))

/-- R155 to R158: one byte, the address in its high-order bits and the qualifier in the rest. -/
def Obligations.MicroAddressForms : Prop :=
  ∀ s : State,
    (∀ (i : Instr) (a : BitVec 32) (q : BitVec 8),
      ((i = .addrM8_0 ∧ a = (byteAt s 0).setWidth 32 ∧ q = 0#8) ∨
        (i = .addrM6_2 ∧ a = ((byteAt s 0).extractLsb' 2 6).setWidth 32 ∧ q = ((byteAt s 0).extractLsb' 0 2).setWidth 8) ∨
        (i = .addrM4_4 ∧ a = ((byteAt s 0).extractLsb' 4 4).setWidth 32 ∧ q = ((byteAt s 0).extractLsb' 0 4).setWidth 8) ∨
        (i = .addrM2_6 ∧ a = ((byteAt s 0).extractLsb' 6 2).setWidth 32 ∧ q = ((byteAt s 0).extractLsb' 0 6).setWidth 8)) →
      available s 1 →
      (s.fields.ptag = .extendedBeacon → exec i s = .next { s with
        cur := s.cur + 1, entry := { s.entry with address := a, qualifier := q }, phase := .link }) ∧
      (s.fields.ptag ≠ .extendedBeacon → withinCap s.params.entryCap (s.fields.entries.length + 1) = true →
        exec i s = .next (afterEntry { s.entry with address := a, qualifier := q } (s.cur + 1) s)))

/-- R159: the width of an address depends on the form alone, and a frame with fewer bytes is `InsufficientData`, also when only the
qualifier byte is missing. -/
def Obligations.AddressReadsOfMissingBytesRaise : Prop :=
  ∀ (s : State) (i : Instr) (width : Nat),
    ((i = .addrN8 ∧ width = 2) ∨ (i = .addrN16 ∧ width = 3) ∨ (i = .addrN24 ∧ width = 4) ∨ (i = .addrN32 ∧ width = 5) ∨
      (i = .addrM8_0 ∧ width = 1) ∨ (i = .addrM6_2 ∧ width = 1) ∨ (i = .addrM4_4 ∧ width = 1) ∨ (i = .addrM2_6 ∧ width = 1)) →
    ¬ available s width → exec i s = .next (respond (.decodeError .insufficientData) s)

/-- R182: an entry that the list has no room for stops the stream, and the FEED has no response. The
mark is the model's form of R262 (log 6). -/
def Obligations.EntryBeyondCapacityStopsStream : Prop :=
  ∀ s : State, withinCap s.params.entryCap (s.fields.entries.length + 1) = false →
    (∀ (i : Instr) (width : Nat),
      ((i = .addrN8 ∧ width = 2) ∨ (i = .addrN16 ∧ width = 3) ∨ (i = .addrN24 ∧ width = 4) ∨ (i = .addrN32 ∧ width = 5) ∨
        (i = .addrM8_0 ∧ width = 1) ∨ (i = .addrM6_2 ∧ width = 1) ∨ (i = .addrM4_4 ∧ width = 1) ∨ (i = .addrM2_6 ∧ width = 1)) →
      available s width → s.fields.ptag ≠ .extendedBeacon → exec i s = .next (stopActive .entryCapExceeded s)) ∧
    (∀ (packetSize speed : BitVec 3) (dlOnly halt : Bool), available s 1 →
      exec (.netLinkInfo packetSize speed dlOnly halt) s = .next (stopActive .entryCapExceeded s)) ∧
    (stopActive .entryCapExceeded s).streams =
      s.streams.modify s.active (fun d => { d with response := none, stopped := some .entryCapExceeded })

/-! ### Network payload and dispatch -/

/-- R171 and R174: `Ack` reads nothing; `RequestBeacon` reads its tag byte and nothing else, whatever the declared size is. -/
def Obligations.AckAndRequestBeaconHaveNoEntries : Prop :=
  ∀ s : State,
    exec .netAck s = .next { s with fields := { s.fields with ptag := .ack, entries := [] }, phase := .signature } ∧
    (available s 1 → exec .netReqBeacon s = .next { s with
      cur := s.cur + 1, fields := { s.fields with ptag := .requestBeacon, entries := [] }, consumed := 1,
      phase := .signature }) ∧
    (¬ available s 1 → exec .netReqBeacon s = .next (respond (.decodeError .insufficientData) s)) ∧
    (s.phase = .network → s.fields.payloadSize = 0#32 → step s = exec .netAck s) ∧
    (s.phase = .network → s.fields.payloadSize ≠ 0#32 → available s 1 → byteAt s 0 = 0x01#8 → step s = exec .netReqBeacon s)

/-- R173 and R175 as far as the first loop test: the two beacon tags start the entry loop with no entries and the tag byte counted
(R172). That the operation ends there and the entries are the following steps is the model's granularity (log 11). -/
def Obligations.BeaconTagsStartEntryLoop : Prop :=
  ∀ (s : State) (i : Instr) (tag : PayloadTag),
    ((i = .netBeacon ∧ tag = .beacon) ∨ (i = .netExtBeacon ∧ tag = .extendedBeacon)) →
    (available s 1 → exec i s = .next { s with
      cur := s.cur + 1, fields := { s.fields with ptag := tag, entries := [] }, consumed := 1,
      phase := if 1 < s.fields.payloadSize.toNat then .entry else .signature }) ∧
    (¬ available s 1 → exec i s = .next (respond (.decodeError .insufficientData) s)) ∧
    (s.phase = .network → s.fields.payloadSize ≠ 0#32 → available s 1 →
      byteAt s 0 = (if tag = .beacon then 0x00#8 else 0x05#8) → step s = exec i s)

/-- R177: any other tag ends the decode, after the tag is read. -/
def Obligations.OtherTagsAreUnsupported : Prop :=
  ∀ (s : State) (tag : Byte),
    (available s 1 → exec (.netBadTag tag) s = .next (respond (.decodeError .unsupportedNetworkPacketType) s)) ∧
    (¬ available s 1 → exec (.netBadTag tag) s = .next (respond (.decodeError .insufficientData) s)) ∧
    (s.phase = .network → s.fields.payloadSize ≠ 0#32 → available s 1 →
      byteAt s 0 ≠ 0x00#8 → byteAt s 0 ≠ 0x01#8 → byteAt s 0 ≠ 0x05#8 →
      step s = .next (respond (.decodeError .unsupportedNetworkPacketType) s))

/-- R172: with a declared size that is not 0 exactly one tag byte is read first, it counts toward `consumed`, and without it the
frame is too short; with declared size 0 no byte is read. -/
def Obligations.TagByteIsReadFirst : Prop :=
  ∀ s : State, s.phase = .network →
    (s.fields.payloadSize ≠ 0#32 → ¬ available s 1 → step s = .next (respond (.decodeError .insufficientData) s)) ∧
    (s.fields.payloadSize ≠ 0#32 → available s 1 →
      step s = .next (respond (.decodeError .unsupportedNetworkPacketType) s) ∨
      ∃ t, step s = .next t ∧ t.cur = s.cur + 1 ∧ t.consumed = 1 ∧ t.fields.entries = []) ∧
    (s.fields.payloadSize = 0#32 → step s = exec .netAck s)

/-- R178 as far as the age byte, with the bits of R80: the entry flag byte and the age byte are read, and the address is next.
That the rest of the entry is the following steps is the model's granularity (log 11). The registers of the entry that no read has written
yet start blank, address and qualifier 0 and no LinkInfo record: values that are the model's choice (log 2). -/
def Obligations.EntryStartsWithFlagByteAndAge : Prop :=
  (∀ (s : State) (dtn active sizeMode : Bool) (addrSize : BitVec 2) (hops : BitVec 3),
    (available s 2 → exec (.netEntry dtn active sizeMode addrSize hops) s = .next { s with
      cur := s.cur + 2,
      entry := { dtn := dtn, active := active, sizeMode := sizeMode, addrSize := addrSize, hops := hops, age := byteAt s 1,
                 address := 0#32, qualifier := 0#8, link := none },
      start := s.cur, phase := .address }) ∧
    (¬ available s 2 →
      exec (.netEntry dtn active sizeMode addrSize hops) s = .next (respond (.decodeError .insufficientData) s))) ∧
  ∀ s : State, s.phase = .entry →
    (available s 2 → step s = .next { s with
      cur := s.cur + 2,
      entry := { dtn := (byteAt s 0).getLsbD 7, active := (byteAt s 0).getLsbD 6, sizeMode := (byteAt s 0).getLsbD 5,
                 addrSize := (byteAt s 0).extractLsb' 3 2, hops := (byteAt s 0).extractLsb' 0 3, age := byteAt s 1,
                 address := 0#32, qualifier := 0#8, link := none },
      start := s.cur, phase := .address }) ∧
    (¬ available s 2 → step s = .next (respond (.decodeError .insufficientData) s))

/-- The address operation of an entry is the one that its `size_mode` and `addr_size` pick (R150). -/
def Obligations.AddressFormFollowsEntryFlags : Prop :=
  ∀ s : State, s.phase = .address →
    (s.entry.sizeMode = false → s.entry.addrSize = 0#2 → step s = exec .addrN8 s) ∧
    (s.entry.sizeMode = false → s.entry.addrSize = 1#2 → step s = exec .addrN16 s) ∧
    (s.entry.sizeMode = false → s.entry.addrSize = 2#2 → step s = exec .addrN24 s) ∧
    (s.entry.sizeMode = false → s.entry.addrSize = 3#2 → step s = exec .addrN32 s) ∧
    (s.entry.sizeMode = true → s.entry.addrSize = 0#2 → step s = exec .addrM8_0 s) ∧
    (s.entry.sizeMode = true → s.entry.addrSize = 1#2 → step s = exec .addrM6_2 s) ∧
    (s.entry.sizeMode = true → s.entry.addrSize = 2#2 → step s = exec .addrM4_4 s) ∧
    (s.entry.sizeMode = true → s.entry.addrSize = 3#2 → step s = exec .addrM2_6 s)

/-- R179 with the bits of R84: the LinkInfo byte completes an entry of an `ExtendedBeacon`. -/
def Obligations.LinkInfoCompletesEntry : Prop :=
  (∀ (s : State) (packetSize speed : BitVec 3) (dlOnly halt : Bool),
    (available s 1 → withinCap s.params.entryCap (s.fields.entries.length + 1) = true →
      exec (.netLinkInfo packetSize speed dlOnly halt) s = .next (afterEntry
        { s.entry with link := some { packetSize := packetSize, speed := speed, dlOnly := dlOnly, halt := halt } }
        (s.cur + 1) s)) ∧
    (¬ available s 1 →
      exec (.netLinkInfo packetSize speed dlOnly halt) s = .next (respond (.decodeError .insufficientData) s))) ∧
  ∀ s : State, s.phase = .link →
    (available s 1 → withinCap s.params.entryCap (s.fields.entries.length + 1) = true →
      step s = .next (afterEntry
        { s.entry with link := some { packetSize := (byteAt s 0).extractLsb' 0 3, speed := (byteAt s 0).extractLsb' 3 3,
                                      dlOnly := (byteAt s 0).getLsbD 6, halt := (byteAt s 0).getLsbD 7 } }
        (s.cur + 1) s)) ∧
    (¬ available s 1 → step s = .next (respond (.decodeError .insufficientData) s))

/-- R176: after a beacon tag, after an entry's address and after its LinkInfo byte, with the bytes there to read and room in the list,
the step counts the bytes read and goes on to another entry exactly while `consumed < declared_size`, to the trailer otherwise. Nothing
is assumed of how many bytes are declared, so an overrun is neither clamped nor an error. That the loop is made of steps is the model's
granularity (log 1, log 11); the room in the list is that of R182. -/
def Obligations.EntryLoopTestsConsumedBytes : Prop :=
  ∀ (s : State) (consumed : Nat),
    ((s.phase = .network ∧ s.fields.payloadSize ≠ 0#32 ∧ available s 1 ∧ (byteAt s 0 = 0x00#8 ∨ byteAt s 0 = 0x05#8) ∧
        consumed = 1) ∨
      (s.phase = .address ∧ s.fields.ptag ≠ .extendedBeacon ∧
        withinCap s.params.entryCap (s.fields.entries.length + 1) = true ∧
        available s (if s.entry.sizeMode then 1 else s.entry.addrSize.toNat + 2) ∧
        consumed = s.consumed + (s.cur + (if s.entry.sizeMode then 1 else s.entry.addrSize.toNat + 2) - s.start)) ∨
      (s.phase = .link ∧ withinCap s.params.entryCap (s.fields.entries.length + 1) = true ∧ available s 1 ∧
        consumed = s.consumed + (s.cur + 1 - s.start))) →
    ∃ t, step s = .next t ∧ t.consumed = consumed ∧ t.fields.payloadSize = s.fields.payloadSize ∧
      (consumed < s.fields.payloadSize.toNat → t.phase = .entry) ∧
      (s.fields.payloadSize.toNat ≤ consumed → t.phase = .signature)

/-- R83, which the spec marks as its own inference ("derived: from rules R80, R81, R82 and R84"): the width of an entry is told by
`size_mode`, `addr_size` and the payload tag. -/
def Obligations.EntryWidthIsFixedByItsFlags : Prop :=
  ∀ (frm : Memory) (cur cur' : Nat) (ext : Bool) (e : Entry), decodeEntry frm cur ext = .ok (e, cur') →
    cur' = cur + (2 + (if e.sizeMode then 1 else e.addrSize.toNat + 2) + (if ext then 1 else 0)) ∧
    cur' ≤ frm.length ∧ e.link.isSome = ext

/-- R183, which the spec marks as its own inference: `(len(frm) - cur) / 3 + 1` iterations are enough for the entry
loop: more fuel never changes its result. -/
def Obligations.EntryLoopEndsWithinFrame : Prop :=
  ∀ (p : Params) (frm : Memory) (declared : Nat) (ext : Bool) (es : List Entry) (consumed cur fuel : Nat),
    cur ≤ frm.length → (frm.length - cur) / 3 + 1 ≤ fuel →
    networkEntries p frm declared ext fuel es consumed cur =
      networkEntries p frm declared ext ((frm.length - cur) / 3 + 1) es consumed cur

/-- R184 to R186: the payload decoder runs for API id 0 alone; any other id is an error before any payload byte is read. That
DISPATCH.NET only goes to the payload stage, and the payload decode is the following steps, is the model's granularity (log 11). -/
def Obligations.DispatchOnApiId : Prop :=
  ∀ s : State,
    exec .dispatchNet s = .next { s with phase := .network } ∧
    (∀ a : BitVec 16, exec (.dispatchUnsupported a) s = .next (respond (.decodeError .unsupportedApi) s)) ∧
    (s.phase = .dispatch → s.fields.apiId = 0#16 → step s = .next { s with phase := .network }) ∧
    (s.phase = .dispatch → s.fields.apiId ≠ 0#16 → step s = .next (respond (.decodeError .unsupportedApi) s))

/-! ### Packet and trailer -/

/-- PKT.DECODE starts the decode of the snapshot at cursor 0, on field registers that hold nothing of an earlier frame (R24, R26).
That the later steps of R200 are the following stages is the model's granularity (log 11); the fresh values are its choice (log 2). -/
def Obligations.PacketDecodeStartsFresh : Prop :=
  ∀ s : State,
    exec .pktDecode s = .next { s with
      cur := 0, fields := Packet.blank, entry := Entry.blank, consumed := 0, start := 0, phase := .flags } ∧
    (s.phase = .packet → step s = exec .pktDecode s)

/-- R202 and R203: two little-endian bytes when the flag is set, otherwise 0 and no read. That PKT.CRC, the last operation of a frame,
answers the Packet (R200, R220) is the model's granularity (log 11), and the flag bit as an operand is its reading of the rows (log 15). -/
def Obligations.TrailerFieldsByFlags : Prop :=
  ∀ s : State,
    (available s 2 → exec (.pktSgn true) s = .next { s with
      cur := s.cur + 2, fields := { s.fields with signature := byteAt s 1 ++ byteAt s 0 }, phase := .crc }) ∧
    exec (.pktSgn false) s = .next { s with fields := { s.fields with signature := 0#16 }, phase := .crc } ∧
    (available s 2 →
      exec (.pktCrc true) s = .next (respond (.produced { s.fields with crcValue := byteAt s 1 ++ byteAt s 0 }) s)) ∧
    exec (.pktCrc false) s = .next (respond (.produced { s.fields with crcValue := 0#16 }) s) ∧
    (¬ available s 2 → exec (.pktSgn true) s = .next (respond (.decodeError .insufficientData) s)) ∧
    (¬ available s 2 → exec (.pktCrc true) s = .next (respond (.decodeError .insufficientData) s)) ∧
    (s.phase = .signature → step s = exec (.pktSgn (s.fields.flags.getLsbD 8)) s) ∧
    (s.phase = .crc → step s = exec (.pktCrc (s.fields.flags.getLsbD 9)) s)

/-- R204 and R228: bytes after the last field change nothing. A frame that decodes, with anything behind it, decodes to the same
Packet and reads the same number of bytes. -/
def Obligations.BytesAfterLastFieldAreIgnored : Prop :=
  ∀ (p : Params) (frm more : Memory) (packet : Packet) (read : Nat), decodePacketAt p frm = .ok (packet, read) →
    decodePacketAt p (frm ++ more) = .ok (packet, read) ∧ read ≤ frm.length

/-- R253: which error a frame reports, check by check, for the checks that the source orders against each other. -/
def Obligations.FirstErrorInFixedOrder : Prop :=
  ∀ (p : Params) (frm : Memory),
    (∀ why, decodeFlags frm 0 = .error why → decodePacket p frm = .error (.raised .malformedHeader)) ∧
    (∀ f flen cur, decodeFlags frm 0 = .ok (f, flen, cur) →
      (frm.length < cur + 2 → decodePacket p frm = .error (.raised .insufficientData)) ∧
      (cur + 2 ≤ frm.length → flag f .routeset = true →
        decodePacket p frm = .error (.raised .unsupportedRouteFormat)) ∧
      (flag f .routeset = false → frm.length < cur + 6 + apiWidth f + timestampWidth f + sizeWidth f →
        decodePacket p frm = .error (.raised .insufficientData))) ∧
    (∀ h cur, decodeHeader frm 0 = .ok (h, cur) →
      (h.apiId ≠ 0#16 → decodePacket p frm = .error (.raised .unsupportedApi)) ∧
      (h.apiId = 0#16 → h.payloadSize ≠ 0#32 → frm.length ≤ cur →
        decodePacket p frm = .error (.raised .insufficientData)) ∧
      (h.apiId = 0#16 → h.payloadSize ≠ 0#32 → cur < frm.length →
        frm.getD cur 0 ≠ 0x00#8 → frm.getD cur 0 ≠ 0x01#8 → frm.getD cur 0 ≠ 0x05#8 →
        decodePacket p frm = .error (.raised .unsupportedNetworkPacketType)))

/-! ### Frame boundary, errors, responses -/

/-- R223: the whole buffer is handed over and the buffer is empty; R224: without a boundary the buffer keeps its bytes. The growth
of `cap` is the model's free value (log 3), and nothing is said about its amount. -/
def Obligations.FrameBoundaryOperations : Prop :=
  ∀ (s : State) (d : Stream), s.streams[s.active]? = some d →
    exec .feedFrame s = .next { s with
      frm := d.buf, streams := s.streams.modify s.active (fun d => { d with buf := [] }), phase := .packet } ∧
    (∀ last : Option Byte, ∃ t d', exec (.feedNeedMore last) s = .next t ∧ t.streams = s.streams.set s.active d' ∧
      d'.buf = d.buf ∧ d'.response = some .needMoreData ∧ d'.stopped = d.stopped ∧ d.cap ≤ d'.cap ∧
      t.phase = .idle ∧ AtRest t ∧ t.params = s.params ∧ t.inputs = s.inputs ∧ t.active = s.active)

/-- R222: a boundary is present iff the last byte of the buffer is `0xC0`; no other byte is looked at. -/
def Obligations.BoundaryIsTheLastByte : Prop :=
  ∀ (s : State) (d : Stream), s.phase = .boundary → s.streams[s.active]? = some d →
    (∀ (front : List Byte), d.buf = front ++ [0xC0#8] → step s = exec .feedFrame s) ∧
    (∀ (front : List Byte) (b : Byte), b ≠ 0xC0#8 → d.buf = front ++ [b] → step s = exec (.feedNeedMore (some b)) s) ∧
    (d.buf = [] → step s = exec (.feedNeedMore none) s)

/-- R225, which the spec marks as its own inference (from R222 and R226, with decision D21): an empty chunk never produces a frame. The
response is `NeedMoreData` and the buffer is as it was. That the FEED takes two steps is the model's granularity (log 1). -/
def Obligations.EmptyChunkNeedsMoreData : Prop :=
  ∀ (s : State) (k : Nat) (rest : List Input) (d : Stream),
    BuffersSynchronised s → WithinCapacities s → s.phase = .idle → s.inputs = .feed k [] :: rest →
    s.streams[k]? = some d → d.stopped = none →
    ∃ t d', core.run 2 s = .next t ∧ t.phase = .idle ∧ t.inputs = rest ∧ t.streams[k]? = some d' ∧
      d'.buf = d.buf ∧ d'.response = some .needMoreData

/-- R254: an error ends the decode at once; the active stream gets the kind as its response and nothing else changes in any stream;
no field register, snapshot or cursor survives. The values at rest are the model's choice (log 2). -/
def Obligations.ErrorKeepsOnlyItsKind : Prop :=
  ∀ (k : ErrorKind) (s : State),
    raiseError k s = .next {
      params := s.params, active := s.active, inputs := s.inputs,
      streams := s.streams.modify s.active (fun d => { d with response := some (.decodeError k) }),
      phase := .idle, frm := [], cur := 0, fields := Packet.blank, entry := Entry.blank, consumed := 0, start := 0 }

/-- R254 and R255 for the step of a run: the step that answers an error or a Packet leaves the active stream's buffer empty and the
block ready for the next FEED. -/
def Obligations.ResponseOfFrameLeavesBufferEmpty : Prop :=
  ∀ (s t : State) (d : Stream) (r : Response), SnapshotSound s → decoding s.phase = true → step s = .next t →
    t.phase = .idle → t.streams[t.active]? = some d → d.response = some r → d.stopped = none →
    d.buf = [] ∧ AtRest t ∧ t.active = s.active ∧ r ≠ .needMoreData

/-- R250 and R252: the numeric codes, and the five kinds are told apart by them. -/
def Obligations.ErrorAndResponseCodes : Prop :=
  errorCode .malformedHeader = 1 ∧ errorCode .unsupportedRouteFormat = 2 ∧ errorCode .unsupportedApi = 3 ∧
  errorCode .unsupportedNetworkPacketType = 4 ∧ errorCode .insufficientData = 5 ∧
  responseCode .needMoreData = 0 ∧ (∀ p, responseCode (.produced p) = 1) ∧ (∀ k, responseCode (.decodeError k) = 2)

/-! ### The whole machine -/

/-- Every operation answers a next state, in every state. Where an entry has no room in the list (R182), that next state has its stream
marked stopped: the form that the model gives the refusal of R262, and its choice (log 6). -/
def Obligations.EveryOperationAnswersNextState : Prop :=
  ∀ (i : Instr) (s : State), ∃ t, exec i s = .next t

/-- R21: of the operations only FEED.FRAME writes a buffer, and only the active stream's; every other leaves every byte of every
buffer as it was. -/
def Obligations.OnlyFeedFrameWritesABuffer : Prop :=
  ∀ (i : Instr) (s t : State), exec i s = .next t →
    (i ≠ .feedFrame → t.streams.map Stream.buf = s.streams.map Stream.buf) ∧
    (∀ j : Nat, j ≠ s.active → t.streams[j]? = s.streams[j]?) ∧
    t.params = s.params ∧ t.inputs = s.inputs ∧ t.active = s.active

/-- R22 and R24: inside a decode no operation changes a byte of the frame, and the cursor never decreases or leaves the frame. -/
def Obligations.FrameImmutableAndCursorMonotone : Prop :=
  ∀ (i : Instr) (s t : State), exec i s = .next t → t.phase ≠ .idle → i ≠ .feedFrame → i ≠ .pktDecode →
    t.frm = s.frm ∧ s.cur ≤ t.cur ∧ (s.cur ≤ s.frm.length → t.cur ≤ t.frm.length) ∧ t.streams = s.streams

/-- R39 and R41: no step changes the build's parameters or the number of streams, and a stopped stream stays stopped
(R262; the mark is the model's, log 6). -/
def Obligations.ParametersAndRefusalsAreFixed : Prop :=
  ∀ s t : State, step s = .next t →
    t.params = s.params ∧ t.streams.length = s.streams.length ∧
    ∀ (j : Nat) (d : Stream), s.streams[j]? = some d → d.stopped ≠ none → ∃ d', t.streams[j]? = some d' ∧ d'.stopped ≠ none

/-- R226 as an invariant of every step: between FEEDs no buffer ends in the sentinel. -/
def Obligations.StepKeepsBuffersSynchronised : Prop :=
  ∀ s t : State, BuffersSynchronised s → step s = .next t → BuffersSynchronised t

/-- R21 and R32 as an invariant of every step: no capacity is ever exceeded. -/
def Obligations.StepKeepsWithinCapacities : Prop :=
  ∀ s t : State, WithinCapacities s → step s = .next t → WithinCapacities t

/-- R25, R58, R223 and R254 as an invariant of every step: during a decode the snapshot ends in the sentinel, the cursor is inside it
and the buffer is empty; between FEEDs the decode registers are at rest (the values at rest are the model's choice, log 2). -/
def Obligations.StepKeepsSnapshotSound : Prop :=
  ∀ s t : State, SnapshotSound s → step s = .next t → SnapshotSound t

/-- R27, R31 to R33 and R36 as an invariant of every step: the registers have the shape that the spec gives them, each stage has what the
earlier ones settle, and every Packet answered has every field settled: `FLEN` 1 to 3, the standard route, API id 0, every absent field
0. `FLEN` 0 before the flags decode is the model's value (log 2). -/
def Obligations.StepKeepsRegistersShaped : Prop :=
  ∀ s t : State, RegistersShaped s → step s = .next t → RegistersShaped t

/-- The four invariants hold of every build of the block right after reset, and of `State.reset`, which by the model's
choice is the build with unbounded capacities and one stream (log 4). -/
def Obligations.ResetMeetsInvariants : Prop :=
  (∀ (p : Params) (n : Nat), BuffersSynchronised (State.built p n) ∧ WithinCapacities (State.built p n) ∧
    SnapshotSound (State.built p n) ∧ RegistersShaped (State.built p n)) ∧
  State.reset = State.built Params.unbounded 1

/-- R41, one run: a step changes no stream but the one whose FEED is in progress or whom the host's next input names. -/
def Obligations.OtherStreamsAreUntouched : Prop :=
  ∀ (s t : State) (j : Nat), step s = .next t →
    (s.phase ≠ .idle → j ≠ s.active) → (s.phase = .idle → ∀ i ∈ s.inputs.head?, inputStream i ≠ j) →
    t.streams[j]? = s.streams[j]?

/-- R41, two runs: what a step of one stream's FEED does depends on no other stream. With the other streams replaced by any others,
the step does the same to everything it can see and leaves the replaced streams alone. -/
def Obligations.DecodeLearnsNothingOfOtherStreams : Prop :=
  ∀ (s t : State) (others : List Stream), s.phase ≠ .idle → others[s.active]? = s.streams[s.active]? → step s = .next t →
    ∃ streams', step { s with streams := others } = .next { t with streams := streams' } ∧
      streams'[s.active]? = t.streams[s.active]? ∧ ∀ j : Nat, j ≠ s.active → streams'[j]? = others[j]?

/-! ### The transaction -/

/-- R3, R57, R220 and R232: from rest, a FEED is a bounded run of steps, and that run does exactly what the atomic transaction `feed`
does to the stream: the buffer appended to or cleared, the response given, and nothing else in the block changed. That a FEED is a run
of steps is the model's granularity (log 1). In `feed`, a refused chunk or entry gives no response and marks the stream (log 6, log 17),
and NEEDMORE grows the capacity by a free value (log 3). -/
def Obligations.FeedRunIsTheTransaction : Prop :=
  ∀ (s : State) (k : Nat) (chunk : List Byte) (rest : List Input) (d : Stream),
    s.phase = .idle → AtRest s → s.inputs = .feed k chunk :: rest → s.streams[k]? = some d → d.stopped = none →
    ∃ n : Nat, n ≤ d.buf.length + chunk.length + 20 ∧
      core.run n s = .next { s with
        inputs := rest, active := k, streams := s.streams.modify k (fun d => feed s.params k d chunk) }

/-- R71, R72, R86 and R137: the frame that the wire layout gives a Packet decodes to that Packet, every register at every value that
has a field to carry it, and the decode reads every byte of the frame but the terminator. -/
def Obligations.DecodeOfEncodedFrameIsThePacket : Prop :=
  ∀ (p : Params) (packet : Packet), packetOnWire packet = true → withinCap p.entryCap packet.entries.length = true →
    decodePacketAt p (encodeFrame packet) = .ok (packet, (encodeFrame packet).length - 1)

/-- The two together, on the machine: fed from rest to an empty stream in one chunk, the frame of a Packet is answered by that
Packet, and the buffer is empty again. That a FEED is a run of steps is the model's granularity (log 1). -/
def Obligations.FedFrameProducesItsPacket : Prop :=
  ∀ (s : State) (k : Nat) (packet : Packet) (rest : List Input) (d : Stream),
    packetOnWire packet = true → withinCap s.params.entryCap packet.entries.length = true →
    withinCap s.params.bufCap (encodeFrame packet).length = true →
    s.phase = .idle → AtRest s → s.inputs = .feed k (encodeFrame packet) :: rest →
    s.streams[k]? = some d → d.buf = [] → d.stopped = none →
    ∃ n : Nat, core.run n s = .next { s with
      inputs := rest, active := k,
      streams := s.streams.modify k (fun d => { d with buf := [], response := some (.produced packet) }) }
end

