-- ==== Sys2Proof/Laws/Memory.lean ====
section
/-! SUPPORT. The laws of the byte spaces: what a read gives, that a read never looks past its bytes, little-endian values as bit
vectors, and the canonical form of a memory's address and byte pairs. -/

namespace Sys2Proof.Machine

@[simp] theorem leNat_nil : leNat [] = 0 := rfl

theorem leNat_cons (b : Byte) (bs : List Byte) : leNat (b :: bs) = b.toNat + 256 * leNat bs := rfl

theorem leNat_lt (bs : List Byte) : leNat bs < 256 ^ bs.length := by
  induction bs with
  | nil => simp
  | cons b bs ih =>
    have hb := b.isLt
    rw [leNat_cons, List.length_cons, Nat.pow_succ]
    omega

/-- A read inside the memory gives the little-endian value of its bytes. -/
theorem memRead_of_le {m : Memory} {a n : Nat} (h : a + n ≤ m.length) :
    memRead m a n = some (leNat ((m.drop a).take n)) := by
  simp [memRead, h]

/-- A read past the end gives nothing. -/
theorem memRead_of_lt {m : Memory} {a n : Nat} (h : m.length < a + n) : memRead m a n = none := by
  simp [memRead, Nat.not_le.mpr h]

theorem memRead_eq_some {m : Memory} {a n v : Nat} :
    memRead m a n = some v ↔ a + n ≤ m.length ∧ v = leNat ((m.drop a).take n) := by
  unfold memRead
  split <;> simp_all [eq_comm]

theorem memRead_eq_none {m : Memory} {a n : Nat} : memRead m a n = none ↔ m.length < a + n := by
  unfold memRead
  split <;> simp_all

/-- The value of an `n`-byte read fits `n` bytes. -/
theorem memRead_lt {m : Memory} {a n v : Nat} (h : memRead m a n = some v) : v < 256 ^ n := by
  obtain ⟨hle, rfl⟩ := memRead_eq_some.mp h
  have := leNat_lt ((m.drop a).take n)
  rwa [List.length_take, List.length_drop, Nat.min_eq_left (by omega)] at this

/-- Bytes after the end do not change a read that succeeds (R204). -/
theorem memRead_append {m : Memory} {a n v : Nat} (h : memRead m a n = some v) (more : Memory) :
    memRead (m ++ more) a n = some v := by
  obtain ⟨hle, rfl⟩ := memRead_eq_some.mp h
  rw [memRead_of_le (by simp; omega), List.drop_append_of_le_length (by omega),
    List.take_append_of_le_length (by simp; omega)]

/-- The byte at the front of a drop. -/
theorem drop_eq_getD_cons {m : Memory} {a : Nat} (h : a < m.length) : m.drop a = m.getD a 0 :: m.drop (a + 1) := by
  rw [List.drop_eq_getElem_cons h, List.getD_eq_getElem _ _ h]

/-- `leNat` of the next `n + 1` bytes, one byte peeled off. -/
theorem leNat_take_succ {m : Memory} {a n : Nat} (h : a < m.length) :
    leNat ((m.drop a).take (n + 1)) = (m.getD a 0).toNat + 256 * leNat ((m.drop (a + 1)).take n) := by
  rw [drop_eq_getD_cons h, List.take_succ_cons, leNat_cons]

@[simp] theorem leNat_take_zero (m : Memory) : leNat (m.take 0) = 0 := by simp

/-- One byte read is that byte. -/
theorem leNat_take_one {m : Memory} {a : Nat} (h : a < m.length) : leNat ((m.drop a).take 1) = (m.getD a 0).toNat := by
  rw [leNat_take_succ h, leNat_take_zero]
  rfl

/-- A byte behind a bit vector: the little-endian value of the two (R52). -/
theorem toNat_append_byte {w : Nat} (x : BitVec w) (b : Byte) : (x ++ b).toNat = b.toNat + 256 * x.toNat := by
  rw [BitVec.toNat_append, Nat.shiftLeft_eq, Nat.mul_comm, ← Nat.two_pow_add_eq_or_of_lt b.isLt]
  omega

/-- Writing a number little-endian and reading it back. -/
theorem leNat_leBytes (n v : Nat) : leNat (leBytes n v) = v % 256 ^ n := by
  induction n generalizing v with
  | zero => simp [leBytes, Nat.mod_one]
  | succ n ih =>
    rw [leBytes, leNat_cons, ih, BitVec.toNat_ofNat, pow_succ' 256 n, Nat.mod_mul]

@[simp] theorem leBytes_length (n v : Nat) : (leBytes n v).length = n := by
  induction n generalizing v with
  | zero => rfl
  | succ n ih => simp [leBytes, ih]

/-- Reading a number where it was written. -/
theorem memRead_leBytes (front back : Memory) (n v : Nat) :
    memRead (front ++ (leBytes n v ++ back)) front.length n = some (v % 256 ^ n) := by
  rw [memRead_of_le (by simp), List.drop_left' rfl, List.take_left' (by simp), leNat_leBytes]

/-! ### The canonical form -/

theorem cellsFrom_wf (base : Nat) (m : Memory) : cellsWf base (cellsFrom base m) = true := by
  induction m generalizing base with
  | nil => rfl
  | cons b bs ih => simp [cellsFrom, cellsWf, ih]

/-- Every byte space is in canonical form, whatever operation made it. -/
theorem Memory.wf_holds (m : Memory) : Memory.wf m = true := cellsFrom_wf 0 m

theorem cellsFrom_injective (base : Nat) : Function.Injective (cellsFrom base) := by
  intro m
  induction m generalizing base with
  | nil => intro n h; cases n with
    | nil => rfl
    | cons c cs => simp [cellsFrom] at h
  | cons b bs ih => intro n h; cases n with
    | nil => simp [cellsFrom] at h
    | cons c cs =>
      simp only [cellsFrom, List.cons.injEq, Prod.mk.injEq, true_and] at h
      rw [h.1, ih (base + 1) h.2]

/-- Equal memories are equal data: the pairs determine the memory. -/
theorem cells_injective : Function.Injective cells := cellsFrom_injective 0

theorem append_wf (buf chunk : Memory) : Memory.wf (append buf chunk) = true := Memory.wf_holds _

end Sys2Proof.Machine
end

