-- ==== Sys2Proof/Laws/State.lean ====
section
/-! SUPPORT. One lemma per field of State per update, so that no proof unfolds a record update. -/

namespace Sys2Proof.Machine

/-! `updateActive`: only the active stream changes. -/

@[simp] theorem updateActive_params (f : Stream → Stream) (s : State) : (updateActive f s).params = s.params := rfl
@[simp] theorem updateActive_streams (f : Stream → Stream) (s : State) : (updateActive f s).streams = s.streams.modify s.active f := rfl
@[simp] theorem updateActive_active (f : Stream → Stream) (s : State) : (updateActive f s).active = s.active := rfl
@[simp] theorem updateActive_inputs (f : Stream → Stream) (s : State) : (updateActive f s).inputs = s.inputs := rfl
@[simp] theorem updateActive_phase (f : Stream → Stream) (s : State) : (updateActive f s).phase = s.phase := rfl
@[simp] theorem updateActive_frm (f : Stream → Stream) (s : State) : (updateActive f s).frm = s.frm := rfl
@[simp] theorem updateActive_cur (f : Stream → Stream) (s : State) : (updateActive f s).cur = s.cur := rfl
@[simp] theorem updateActive_fields (f : Stream → Stream) (s : State) : (updateActive f s).fields = s.fields := rfl
@[simp] theorem updateActive_entry (f : Stream → Stream) (s : State) : (updateActive f s).entry = s.entry := rfl
@[simp] theorem updateActive_consumed (f : Stream → Stream) (s : State) : (updateActive f s).consumed = s.consumed := rfl
@[simp] theorem updateActive_start (f : Stream → Stream) (s : State) : (updateActive f s).start = s.start := rfl

/-! `finish`: the FEED returns: the decode registers are at rest, the active stream changes by `f`. -/

@[simp] theorem finish_params (f : Stream → Stream) (s : State) : (finish f s).params = s.params := rfl
@[simp] theorem finish_streams (f : Stream → Stream) (s : State) : (finish f s).streams = s.streams.modify s.active f := rfl
@[simp] theorem finish_active (f : Stream → Stream) (s : State) : (finish f s).active = s.active := rfl
@[simp] theorem finish_inputs (f : Stream → Stream) (s : State) : (finish f s).inputs = s.inputs := rfl
@[simp] theorem finish_phase (f : Stream → Stream) (s : State) : (finish f s).phase = Phase.idle := rfl
@[simp] theorem finish_frm (f : Stream → Stream) (s : State) : (finish f s).frm = [] := rfl
@[simp] theorem finish_cur (f : Stream → Stream) (s : State) : (finish f s).cur = 0 := rfl
@[simp] theorem finish_fields (f : Stream → Stream) (s : State) : (finish f s).fields = Packet.blank := rfl
@[simp] theorem finish_entry (f : Stream → Stream) (s : State) : (finish f s).entry = Entry.blank := rfl
@[simp] theorem finish_consumed (f : Stream → Stream) (s : State) : (finish f s).consumed = 0 := rfl
@[simp] theorem finish_start (f : Stream → Stream) (s : State) : (finish f s).start = 0 := rfl

/-! `respond`: as `finish`, with the response set. -/

@[simp] theorem respond_params (r : Response) (s : State) : (respond r s).params = s.params := rfl
@[simp] theorem respond_streams (r : Response) (s : State) : (respond r s).streams = s.streams.modify s.active (fun d => { d with response := some r }) := rfl
@[simp] theorem respond_active (r : Response) (s : State) : (respond r s).active = s.active := rfl
@[simp] theorem respond_inputs (r : Response) (s : State) : (respond r s).inputs = s.inputs := rfl
@[simp] theorem respond_phase (r : Response) (s : State) : (respond r s).phase = Phase.idle := rfl
@[simp] theorem respond_frm (r : Response) (s : State) : (respond r s).frm = [] := rfl
@[simp] theorem respond_cur (r : Response) (s : State) : (respond r s).cur = 0 := rfl
@[simp] theorem respond_fields (r : Response) (s : State) : (respond r s).fields = Packet.blank := rfl
@[simp] theorem respond_entry (r : Response) (s : State) : (respond r s).entry = Entry.blank := rfl
@[simp] theorem respond_consumed (r : Response) (s : State) : (respond r s).consumed = 0 := rfl
@[simp] theorem respond_start (r : Response) (s : State) : (respond r s).start = 0 := rfl

/-! `stopActive`: as `finish`, with the stream stopped and no response. -/

@[simp] theorem stopActive_params (why : StopReason) (s : State) : (stopActive why s).params = s.params := rfl
@[simp] theorem stopActive_streams (why : StopReason) (s : State) : (stopActive why s).streams = s.streams.modify s.active (fun d => { d with response := none, stopped := some why }) := rfl
@[simp] theorem stopActive_active (why : StopReason) (s : State) : (stopActive why s).active = s.active := rfl
@[simp] theorem stopActive_inputs (why : StopReason) (s : State) : (stopActive why s).inputs = s.inputs := rfl
@[simp] theorem stopActive_phase (why : StopReason) (s : State) : (stopActive why s).phase = Phase.idle := rfl
@[simp] theorem stopActive_frm (why : StopReason) (s : State) : (stopActive why s).frm = [] := rfl
@[simp] theorem stopActive_cur (why : StopReason) (s : State) : (stopActive why s).cur = 0 := rfl
@[simp] theorem stopActive_fields (why : StopReason) (s : State) : (stopActive why s).fields = Packet.blank := rfl
@[simp] theorem stopActive_entry (why : StopReason) (s : State) : (stopActive why s).entry = Entry.blank := rfl
@[simp] theorem stopActive_consumed (why : StopReason) (s : State) : (stopActive why s).consumed = 0 := rfl
@[simp] theorem stopActive_start (why : StopReason) (s : State) : (stopActive why s).start = 0 := rfl

/-! `moveCursor`: only the cursor changes. -/

@[simp] theorem moveCursor_params (n : Nat) (s : State) : (moveCursor n s).params = s.params := rfl
@[simp] theorem moveCursor_streams (n : Nat) (s : State) : (moveCursor n s).streams = s.streams := rfl
@[simp] theorem moveCursor_active (n : Nat) (s : State) : (moveCursor n s).active = s.active := rfl
@[simp] theorem moveCursor_inputs (n : Nat) (s : State) : (moveCursor n s).inputs = s.inputs := rfl
@[simp] theorem moveCursor_phase (n : Nat) (s : State) : (moveCursor n s).phase = s.phase := rfl
@[simp] theorem moveCursor_frm (n : Nat) (s : State) : (moveCursor n s).frm = s.frm := rfl
@[simp] theorem moveCursor_cur (n : Nat) (s : State) : (moveCursor n s).cur = s.cur + n := rfl
@[simp] theorem moveCursor_fields (n : Nat) (s : State) : (moveCursor n s).fields = s.fields := rfl
@[simp] theorem moveCursor_entry (n : Nat) (s : State) : (moveCursor n s).entry = s.entry := rfl
@[simp] theorem moveCursor_consumed (n : Nat) (s : State) : (moveCursor n s).consumed = s.consumed := rfl
@[simp] theorem moveCursor_start (n : Nat) (s : State) : (moveCursor n s).start = s.start := rfl

/-! `proceed`: the field registers and the stage change, nothing else. -/

@[simp] theorem proceed_params (next : Phase) (f : Packet → Packet) (s : State) : (proceed next f s).params = s.params := rfl
@[simp] theorem proceed_streams (next : Phase) (f : Packet → Packet) (s : State) : (proceed next f s).streams = s.streams := rfl
@[simp] theorem proceed_active (next : Phase) (f : Packet → Packet) (s : State) : (proceed next f s).active = s.active := rfl
@[simp] theorem proceed_inputs (next : Phase) (f : Packet → Packet) (s : State) : (proceed next f s).inputs = s.inputs := rfl
@[simp] theorem proceed_phase (next : Phase) (f : Packet → Packet) (s : State) : (proceed next f s).phase = next := rfl
@[simp] theorem proceed_frm (next : Phase) (f : Packet → Packet) (s : State) : (proceed next f s).frm = s.frm := rfl
@[simp] theorem proceed_cur (next : Phase) (f : Packet → Packet) (s : State) : (proceed next f s).cur = s.cur := rfl
@[simp] theorem proceed_fields (next : Phase) (f : Packet → Packet) (s : State) : (proceed next f s).fields = f s.fields := rfl
@[simp] theorem proceed_entry (next : Phase) (f : Packet → Packet) (s : State) : (proceed next f s).entry = s.entry := rfl
@[simp] theorem proceed_consumed (next : Phase) (f : Packet → Packet) (s : State) : (proceed next f s).consumed = s.consumed := rfl
@[simp] theorem proceed_start (next : Phase) (f : Packet → Packet) (s : State) : (proceed next f s).start = s.start := rfl

/-! `entryLoop`: only the stage changes. -/

@[simp] theorem entryLoop_params (s : State) : (entryLoop s).params = s.params := rfl
@[simp] theorem entryLoop_streams (s : State) : (entryLoop s).streams = s.streams := rfl
@[simp] theorem entryLoop_active (s : State) : (entryLoop s).active = s.active := rfl
@[simp] theorem entryLoop_inputs (s : State) : (entryLoop s).inputs = s.inputs := rfl
@[simp] theorem entryLoop_phase (s : State) : (entryLoop s).phase = if s.consumed < s.fields.payloadSize.toNat then .entry else .signature := rfl
@[simp] theorem entryLoop_frm (s : State) : (entryLoop s).frm = s.frm := rfl
@[simp] theorem entryLoop_cur (s : State) : (entryLoop s).cur = s.cur := rfl
@[simp] theorem entryLoop_fields (s : State) : (entryLoop s).fields = s.fields := rfl
@[simp] theorem entryLoop_entry (s : State) : (entryLoop s).entry = s.entry := rfl
@[simp] theorem entryLoop_consumed (s : State) : (entryLoop s).consumed = s.consumed := rfl
@[simp] theorem entryLoop_start (s : State) : (entryLoop s).start = s.start := rfl

/-! `withEntry`: only the entry changes. -/

@[simp] theorem withEntry_params (e : Entry) (s : State) : (withEntry e s).params = s.params := rfl
@[simp] theorem withEntry_streams (e : Entry) (s : State) : (withEntry e s).streams = s.streams := rfl
@[simp] theorem withEntry_active (e : Entry) (s : State) : (withEntry e s).active = s.active := rfl
@[simp] theorem withEntry_inputs (e : Entry) (s : State) : (withEntry e s).inputs = s.inputs := rfl
@[simp] theorem withEntry_phase (e : Entry) (s : State) : (withEntry e s).phase = s.phase := rfl
@[simp] theorem withEntry_frm (e : Entry) (s : State) : (withEntry e s).frm = s.frm := rfl
@[simp] theorem withEntry_cur (e : Entry) (s : State) : (withEntry e s).cur = s.cur := rfl
@[simp] theorem withEntry_fields (e : Entry) (s : State) : (withEntry e s).fields = s.fields := rfl
@[simp] theorem withEntry_entry (e : Entry) (s : State) : (withEntry e s).entry = e := rfl
@[simp] theorem withEntry_consumed (e : Entry) (s : State) : (withEntry e s).consumed = s.consumed := rfl
@[simp] theorem withEntry_start (e : Entry) (s : State) : (withEntry e s).start = s.start := rfl

/-! `appendEntry`: only the entry list and the count change. -/

@[simp] theorem appendEntry_params (s : State) : (appendEntry s).params = s.params := rfl
@[simp] theorem appendEntry_streams (s : State) : (appendEntry s).streams = s.streams := rfl
@[simp] theorem appendEntry_active (s : State) : (appendEntry s).active = s.active := rfl
@[simp] theorem appendEntry_inputs (s : State) : (appendEntry s).inputs = s.inputs := rfl
@[simp] theorem appendEntry_phase (s : State) : (appendEntry s).phase = s.phase := rfl
@[simp] theorem appendEntry_frm (s : State) : (appendEntry s).frm = s.frm := rfl
@[simp] theorem appendEntry_cur (s : State) : (appendEntry s).cur = s.cur := rfl
@[simp] theorem appendEntry_fields (s : State) : (appendEntry s).fields = { s.fields with entries := s.fields.entries ++ [s.entry] } := rfl
@[simp] theorem appendEntry_entry (s : State) : (appendEntry s).entry = s.entry := rfl
@[simp] theorem appendEntry_consumed (s : State) : (appendEntry s).consumed = s.consumed + (s.cur - s.start) := rfl
@[simp] theorem appendEntry_start (s : State) : (appendEntry s).start = s.start := rfl

/-! `beginPayload`: the tag, the entry list and the count change. -/

@[simp] theorem beginPayload_params (tag : PayloadTag) (s : State) : (beginPayload tag s).params = s.params := rfl
@[simp] theorem beginPayload_streams (tag : PayloadTag) (s : State) : (beginPayload tag s).streams = s.streams := rfl
@[simp] theorem beginPayload_active (tag : PayloadTag) (s : State) : (beginPayload tag s).active = s.active := rfl
@[simp] theorem beginPayload_inputs (tag : PayloadTag) (s : State) : (beginPayload tag s).inputs = s.inputs := rfl
@[simp] theorem beginPayload_phase (tag : PayloadTag) (s : State) : (beginPayload tag s).phase = s.phase := rfl
@[simp] theorem beginPayload_frm (tag : PayloadTag) (s : State) : (beginPayload tag s).frm = s.frm := rfl
@[simp] theorem beginPayload_cur (tag : PayloadTag) (s : State) : (beginPayload tag s).cur = s.cur := rfl
@[simp] theorem beginPayload_fields (tag : PayloadTag) (s : State) : (beginPayload tag s).fields = { s.fields with ptag := tag, entries := [] } := rfl
@[simp] theorem beginPayload_entry (tag : PayloadTag) (s : State) : (beginPayload tag s).entry = s.entry := rfl
@[simp] theorem beginPayload_consumed (tag : PayloadTag) (s : State) : (beginPayload tag s).consumed = 1 := rfl
@[simp] theorem beginPayload_start (tag : PayloadTag) (s : State) : (beginPayload tag s).start = s.start := rfl

/-! `beginEntry`: the entry, its start and the stage change. -/

@[simp] theorem beginEntry_params (start : Nat) (e : Entry) (s : State) : (beginEntry start e s).params = s.params := rfl
@[simp] theorem beginEntry_streams (start : Nat) (e : Entry) (s : State) : (beginEntry start e s).streams = s.streams := rfl
@[simp] theorem beginEntry_active (start : Nat) (e : Entry) (s : State) : (beginEntry start e s).active = s.active := rfl
@[simp] theorem beginEntry_inputs (start : Nat) (e : Entry) (s : State) : (beginEntry start e s).inputs = s.inputs := rfl
@[simp] theorem beginEntry_phase (start : Nat) (e : Entry) (s : State) : (beginEntry start e s).phase = .address := rfl
@[simp] theorem beginEntry_frm (start : Nat) (e : Entry) (s : State) : (beginEntry start e s).frm = s.frm := rfl
@[simp] theorem beginEntry_cur (start : Nat) (e : Entry) (s : State) : (beginEntry start e s).cur = s.cur := rfl
@[simp] theorem beginEntry_fields (start : Nat) (e : Entry) (s : State) : (beginEntry start e s).fields = s.fields := rfl
@[simp] theorem beginEntry_entry (start : Nat) (e : Entry) (s : State) : (beginEntry start e s).entry = e := rfl
@[simp] theorem beginEntry_consumed (start : Nat) (e : Entry) (s : State) : (beginEntry start e s).consumed = s.consumed := rfl
@[simp] theorem beginEntry_start (start : Nat) (e : Entry) (s : State) : (beginEntry start e s).start = start := rfl

/-! `placeFrame`: only the frame and the cursor change. -/

@[simp] theorem placeFrame_params (front : List Byte) (s : State) : (placeFrame front s).params = s.params := rfl
@[simp] theorem placeFrame_streams (front : List Byte) (s : State) : (placeFrame front s).streams = s.streams := rfl
@[simp] theorem placeFrame_active (front : List Byte) (s : State) : (placeFrame front s).active = s.active := rfl
@[simp] theorem placeFrame_inputs (front : List Byte) (s : State) : (placeFrame front s).inputs = s.inputs := rfl
@[simp] theorem placeFrame_phase (front : List Byte) (s : State) : (placeFrame front s).phase = s.phase := rfl
@[simp] theorem placeFrame_frm (front : List Byte) (s : State) : (placeFrame front s).frm = front ++ zeroOperands := rfl
@[simp] theorem placeFrame_cur (front : List Byte) (s : State) : (placeFrame front s).cur = 0 := rfl
@[simp] theorem placeFrame_fields (front : List Byte) (s : State) : (placeFrame front s).fields = s.fields := rfl
@[simp] theorem placeFrame_entry (front : List Byte) (s : State) : (placeFrame front s).entry = s.entry := rfl
@[simp] theorem placeFrame_consumed (front : List Byte) (s : State) : (placeFrame front s).consumed = s.consumed := rfl
@[simp] theorem placeFrame_start (front : List Byte) (s : State) : (placeFrame front s).start = s.start := rfl

/-! `activeBuf` reads the streams and the active stream only. -/

theorem activeBuf_congr {s t : State} (hs : s.streams = t.streams) (ha : s.active = t.active) : activeBuf s = activeBuf t := by
  simp [activeBuf, hs, ha]

@[simp] theorem activeBuf_moveCursor (n : Nat) (s : State) : activeBuf (moveCursor n s) = activeBuf s := rfl

@[simp] theorem activeBuf_proceed (next : Phase) (f : Packet → Packet) (s : State) :
    activeBuf (proceed next f s) = activeBuf s := rfl

@[simp] theorem activeBuf_entryLoop (s : State) : activeBuf (entryLoop s) = activeBuf s := rfl

/-! Two moves are one. -/

@[simp] theorem moveCursor_moveCursor (m n : Nat) (s : State) :
    moveCursor m (moveCursor n s) = moveCursor (n + m) s := by simp [moveCursor, Nat.add_assoc]

end Sys2Proof.Machine
end

