-- ==== Sys2Proof/Laws/Ops.lean ====
section
/-! SUPPORT. One lemma per shared operation that says once everything it can do. -/

namespace Sys2Proof.Machine

/-! ### A FEED that returns forgets where the decode stood -/

/-- `finish` reads nothing of the state but the parameters, the streams, the active stream and the inputs. -/
theorem finish_congr {s t : State} (f : Stream → Stream) (hp : s.params = t.params) (hs : s.streams = t.streams)
    (ha : s.active = t.active) (hi : s.inputs = t.inputs) : finish f s = finish f t := by
  simp [finish, updateActive, hp, hs, ha, hi]

theorem raiseError_congr {s t : State} (k : ErrorKind) (hp : s.params = t.params) (hs : s.streams = t.streams)
    (ha : s.active = t.active) (hi : s.inputs = t.inputs) : raiseError k s = raiseError k t := by
  unfold raiseError respond
  rw [finish_congr _ hp hs ha hi]

@[simp] theorem raiseError_moveCursor (k : ErrorKind) (n : Nat) (s : State) :
    raiseError k (moveCursor n s) = raiseError k s := rfl

@[simp] theorem respond_moveCursor (r : Response) (n : Nat) (s : State) : respond r (moveCursor n s) = respond r s := rfl

@[simp] theorem stopActive_moveCursor (why : StopReason) (n : Nat) (s : State) :
    stopActive why (moveCursor n s) = stopActive why s := rfl

@[simp] theorem stopActive_withEntry (why : StopReason) (e : Entry) (s : State) :
    stopActive why (withEntry e s) = stopActive why s := rfl

/-! ### The cursor read -/

theorem reading_of_le {n : Nat} {s : State} {go : Nat → State → Result} (h : s.cur + n ≤ s.frm.length) :
    reading n s go = go (leNat ((s.frm.drop s.cur).take n)) (moveCursor n s) := by
  simp [reading, memRead_of_le h]

theorem reading_of_lt {n : Nat} {s : State} {go : Nat → State → Result} (h : s.frm.length < s.cur + n) :
    reading n s go = raiseError .insufficientData s := by
  simp [reading, memRead_of_lt h]

/-- A read that answers a next state either found its bytes and went on, or raised `InsufficientData`. -/
theorem reading_next {n : Nat} {s t : State} {go : Nat → State → Result} (h : reading n s go = .next t) :
    (s.cur + n ≤ s.frm.length ∧ ∃ v, v < 256 ^ n ∧ go v (moveCursor n s) = .next t) ∨
      t = respond (.decodeError .insufficientData) s := by
  by_cases hle : s.cur + n ≤ s.frm.length
  · rw [reading_of_le hle] at h
    exact .inl ⟨hle, _, memRead_lt (memRead_of_le hle), h⟩
  · rw [reading_of_lt (by omega)] at h
    injection h with h
    exact .inr h.symm

/-! ### The flags chain -/

theorem takeFlags_next {n : Nat} {f : FlagsWord} {s t : State} (h : takeFlags n f s = .next t) :
    (s.cur + n ≤ s.frm.length ∧
      t = proceed .pid (fun p => { p with flags := f, flen := BitVec.ofNat 2 n }) (moveCursor n s)) ∨
      t = respond (.decodeError .malformedHeader) s := by
  unfold takeFlags at h
  split at h
  · injection h with h
    exact .inl ⟨‹_›, h.symm⟩
  · injection h with h
    exact .inr h.symm

/-! ### The entry loop -/

/-- The end of an entry: the list was full and the stream stops, or the entry is appended and the loop test made. -/
theorem finishEntry_eq (s : State) :
    finishEntry s = .next (if entriesFull s.params s.fields.entries then stopActive .entryCapExceeded s
      else afterEntry s.entry s.cur s) := by
  unfold finishEntry
  split <;> rfl

/-- The address is written: NET.LINKINFO is next under `ExtendedBeacon`, otherwise the entry ends. -/
theorem setAddress_eq (a : BitVec 32) (q : BitVec 8) (s : State) :
    setAddress a q s = .next (
      if s.fields.ptag = .extendedBeacon then
        { s with entry := { s.entry with address := a, qualifier := q }, phase := .link }
      else if entriesFull s.params s.fields.entries then stopActive .entryCapExceeded s
      else afterEntry { s.entry with address := a, qualifier := q } s.cur s) := by
  unfold setAddress
  simp only [finishEntry_eq, stopActive_withEntry, withEntry_params, withEntry_fields, withEntry_entry, withEntry_cur]
  split <;> rfl

theorem entriesFull_eq_false {p : Params} {es : List Entry} :
    entriesFull p es = false ↔ withinCap p.entryCap (es.length + 1) = true := by
  unfold entriesFull withinCap
  cases p.entryCap <;> simp

theorem overBufCap_eq_false {p : Params} {buf chunk : Memory} :
    overBufCap p buf chunk = false ↔ withinCap p.bufCap (append buf chunk).length = true := by
  unfold overBufCap withinCap append
  cases p.bufCap <;> simp

/-! ### The host's inputs -/

/-- What taking a chunk can do, by the state of the stream it is for. -/
theorem acceptFeed_next {k : Nat} {chunk : List Byte} {s t : State} (h : acceptFeed k chunk s = .next t) :
    ∃ d, s.streams[k]? = some d ∧ d.stopped = none ∧
      ((overBufCap s.params d.buf chunk = true ∧ t = stopActive .bufferCapExceeded { s with active := k }) ∨
        (overBufCap s.params d.buf chunk = false ∧
          t = updateActive (fun d => { d with buf := append d.buf chunk, response := none })
            { s with active := k, phase := .boundary })) := by
  unfold acceptFeed at h
  split at h
  · cases h
  · rename_i d hd
    split at h
    · cases h
    · rename_i hrun
      split at h <;> injection h with h
      · exact ⟨d, hd, hrun, .inl ⟨‹_›, h.symm⟩⟩
      · rename_i hfits
        exact ⟨d, hd, hrun, .inr ⟨by simpa using hfits, h.symm⟩⟩

theorem resetStream_next {k : Nat} {s t : State} (h : resetStream k s = .next t) :
    k < s.streams.length ∧
      t = { s with streams := s.streams.modify k (fun d => { d with buf := [], response := none }) } := by
  unfold resetStream at h
  split at h
  · cases h
  · rename_i d hd
    injection h with h
    exact ⟨(List.getElem?_eq_some_iff.mp hd).1, h.symm⟩

/-- What an idle step can do. -/
theorem takeInput_next {s t : State} (h : takeInput s = .next t) :
    (s.inputs = [] ∧ t = s) ∨
      (∃ k chunk rest, s.inputs = .feed k chunk :: rest ∧ acceptFeed k chunk { s with inputs := rest } = .next t) ∨
      (∃ k rest, s.inputs = .reset k :: rest ∧ resetStream k { s with inputs := rest } = .next t) := by
  unfold takeInput at h
  split at h
  · injection h with h
    exact .inl ⟨‹_›, h.symm⟩
  · exact .inr (.inl ⟨_, _, _, ‹_›, h⟩)
  · exact .inr (.inr ⟨_, _, ‹_›, h⟩)

/-! ### A list changed at one place -/

/-- What holds of every element holds after a change of one that keeps it. -/
theorem forall_mem_modify {α : Type} {P : α → Prop} {l : List α} {k : Nat} {f : α → α} (h : ∀ a ∈ l, P a)
    (hf : ∀ a, l[k]? = some a → P a → P (f a)) : ∀ a ∈ l.modify k f, P a := by
  intro a ha
  obtain ⟨j, hj⟩ := List.mem_iff_getElem?.mp ha
  rw [List.getElem?_modify] at hj
  split at hj
  · subst_vars
    cases hl : l[j]? with
    | none => simp [hl] at hj
    | some b =>
      have hb : f b = a := by simpa [hl] using hj
      exact hb ▸ hf b hl (h b (List.mem_of_getElem? hl))
  · exact h a (List.mem_of_getElem? (by simpa using hj))

end Sys2Proof.Machine
end

