-- ==== Sys2Proof/Laws/Exec.lean ====
section
/-! SUPPORT. Everything an operation can do, said once: `exec_cases`. Frames and invariants follow from it without unfolding `exec`. -/

namespace Sys2Proof.Machine

/-- The stage whose selector picks the operation (R89). -/
def stageOf : Instr → Phase
  | .flagsLen1 _ | .flagsLen2 _ _ | .flagsLen3 _ _ _ | .flagsShort _ | .flagsUnterminated _ _ _ => .flags
  | .hdrPid => .pid
  | .hdrRoute | .hdrRouteAlt => .route
  | .hdrApiNone | .hdrApi8 | .hdrApi16 => .api
  | .hdrTsNone | .hdrTs48 => .timestamp
  | .hdrSize0 | .hdrSize32 | .hdrSize8 | .hdrSize16 => .size
  | .addrN8 | .addrN16 | .addrN24 | .addrN32 | .addrM8_0 | .addrM6_2 | .addrM4_4 | .addrM2_6 => .address
  | .dispatchNet | .dispatchUnsupported _ => .dispatch
  | .netAck | .netBeacon | .netReqBeacon | .netExtBeacon | .netBadTag _ => .network
  | .netEntry _ _ _ _ _ => .entry
  | .netLinkInfo _ _ _ _ => .link
  | .pktDecode => .packet
  | .pktSgn _ => .signature
  | .pktCrc _ => .crc
  | .feedFrame | .feedNeedMore _ => .boundary

/-- What can become of the entry list: nothing, cleared, or one entry appended behind the others where there is room (R180, R182). -/
def EntriesMove (s t : State) : Prop :=
  t.fields.entries = s.fields.entries ∨ t.fields.entries = [] ∨
    (entriesFull s.params s.fields.entries = false ∧ t.fields.entries = s.fields.entries ++ [t.entry])

/-- The decode goes on: the streams, the frame, the inputs and the parameters stand, and the cursor moves forward inside the frame. -/
def Advances (s t : State) : Prop :=
  decoding t.phase = true ∧ s.cur ≤ t.cur ∧ (t.cur = s.cur ∨ t.cur ≤ s.frm.length) ∧ EntriesMove s t ∧
    t = { s with cur := t.cur, fields := t.fields, entry := t.entry, consumed := t.consumed, start := t.start, phase := t.phase }

/-- The outcomes of an operation. -/
inductive ExecOutcome (i : Instr) (s : State) : State → Prop where
  | raised (k : ErrorKind) : ExecOutcome i s (respond (.decodeError k) s)
  | entryCap : ExecOutcome i s (stopActive .entryCapExceeded s)
  | produced (c : Bool) (v : BitVec 16) (h : i = .pktCrc c) :
      ExecOutcome i s (respond (.produced { s.fields with crcValue := v }) s)
  | packetStarts (h : i = .pktDecode) :
      ExecOutcome i s { s with
        cur := 0, fields := Packet.blank, entry := Entry.blank, consumed := 0, start := 0, phase := .flags }
  | frameHandedOver (h : i = .feedFrame) :
      ExecOutcome i s { updateActive (fun d => { d with buf := [] }) s with frm := activeBuf s, phase := .packet }
  | needsMore (b : Option Byte) (h : i = .feedNeedMore b) :
      ExecOutcome i s (finish (fun d => growCap s.active { d with response := some .needMoreData }) s)
  | advances (t : State) (hi : stageOf i ≠ .boundary) (h : Advances s t) : ExecOutcome i s t

/-- A read followed by an outcome: the whole has that outcome or raised `InsufficientData`. -/
theorem ExecOutcome.of_reading {i : Instr} {n : Nat} {s t : State} {go : Nat → State → Result}
    (h : reading n s go = .next t)
    (hgo : ∀ v, s.cur + n ≤ s.frm.length → go v (moveCursor n s) = .next t → ExecOutcome i s t) :
    ExecOutcome i s t := by
  obtain ⟨hle, v, -, h⟩ | rfl := reading_next h
  · exact hgo v hle h
  · exact .raised _

theorem decoding_ite {c : Prop} [Decidable c] {a b : Phase} (ha : decoding a = true) (hb : decoding b = true) :
    decoding (if c then a else b) = true := by
  split <;> assumption

theorem afterEntry_outcome {i : Instr} {s : State} {e : Entry} {n : Nat} (hi : stageOf i ≠ .boundary)
    (hle : s.cur + n ≤ s.frm.length) (hroom : entriesFull s.params s.fields.entries = false) :
    ExecOutcome i s (afterEntry e (s.cur + n) s) :=
  .advances _ hi ⟨decoding_ite rfl rfl, Nat.le_add_right _ _, .inr hle, .inr (.inr ⟨hroom, rfl⟩), rfl⟩

theorem setAddress_outcome {i : Instr} {s t : State} {n : Nat} {a : BitVec 32} {q : BitVec 8} (hi : stageOf i ≠ .boundary)
    (hle : s.cur + n ≤ s.frm.length) (h : setAddress a q (moveCursor n s) = .next t) : ExecOutcome i s t := by
  rw [setAddress_eq] at h
  injection h with h
  subst h
  split
  · exact .advances _ hi ⟨rfl, Nat.le_add_right _ _, .inr hle, .inl rfl, rfl⟩
  · split
    · exact .entryCap
    · rename_i hroom
      exact afterEntry_outcome hi hle (by simpa using hroom)

theorem normalAddress_outcome {i : Instr} {s t : State} {n : Nat} (hi : stageOf i ≠ .boundary)
    (h : normalAddress n s = .next t) : ExecOutcome i s t :=
  .of_reading h fun _ hle h => by
    obtain ⟨hle', _, -, h⟩ | rfl := reading_next h
    · rw [moveCursor_moveCursor] at h
      exact setAddress_outcome hi (by simpa [Nat.add_assoc] using hle') h
    · exact .raised _

theorem splitAddress_outcome {i : Instr} {s t : State} {qb : Nat} (hi : stageOf i ≠ .boundary)
    (h : splitAddress qb s = .next t) : ExecOutcome i s t :=
  .of_reading h fun _ hle h => setAddress_outcome hi hle h

theorem takeFlags_outcome {i : Instr} {s t : State} {n : Nat} {f : FlagsWord} (hi : stageOf i ≠ .boundary)
    (h : takeFlags n f s = .next t) : ExecOutcome i s t := by
  obtain ⟨hle, rfl⟩ | rfl := takeFlags_next h
  · exact .advances _ hi ⟨rfl, Nat.le_add_right _ _, .inr hle, .inl rfl, rfl⟩
  · exact .raised _

/-- A read whose value goes into a field register. -/
theorem field_outcome {i : Instr} {s t : State} {n : Nat} {next : Phase} {f : Nat → Packet → Packet} (hi : stageOf i ≠ .boundary)
    (h : (reading n s fun v s1 => .next (proceed next (f v) s1)) = .next t) (hp : decoding next = true)
    (hf : ∀ v p, (f v p).entries = p.entries) : ExecOutcome i s t :=
  .of_reading h fun v hle h => by
    injection h with h
    subst h
    exact .advances _ hi ⟨hp, Nat.le_add_right _ _, .inr hle, .inl (hf v s.fields), rfl⟩

/-- A field that is absent takes its value without a read. -/
theorem absent_outcome {i : Instr} {s : State} {next : Phase} {f : Packet → Packet} (hi : stageOf i ≠ .boundary)
    (hp : decoding next = true) (hf : (f s.fields).entries = s.fields.entries ∨ (f s.fields).entries = []) :
    ExecOutcome i s (proceed next f s) :=
  .advances _ hi ⟨hp, Nat.le_refl _, .inl rfl, hf.imp_right .inl, rfl⟩

/-- A tag byte that starts a payload. -/
theorem readTag_outcome {i : Instr} {s t : State} {tag : PayloadTag} {go : State → State} (hi : stageOf i ≠ .boundary)
    (hgo : ∀ s1, decoding (go s1).phase = true ∧ go s1 = { s1 with phase := (go s1).phase })
    (h : (readTag tag s fun s1 => .next (go s1)) = .next t) : ExecOutcome i s t :=
  .of_reading h fun _ hle h => by
    injection h with h
    subst h
    obtain ⟨hd, heq⟩ := hgo (beginPayload tag (moveCursor 1 s))
    rw [heq]
    exact .advances _ hi ⟨hd, Nat.le_add_right _ _, .inr hle, .inr (.inl rfl), rfl⟩

/-- Everything an operation can do when it answers a next state. -/
theorem exec_cases {i : Instr} {s t : State} (h : exec i s = .next t) : ExecOutcome i s t := by
  cases i with
  | flagsLen1 b1 => exact takeFlags_outcome nofun h
  | flagsLen2 b1 b2 => exact takeFlags_outcome nofun h
  | flagsLen3 b1 b2 b3 => exact takeFlags_outcome nofun h
  | flagsShort left => injection h with h; exact h ▸ .raised _
  | flagsUnterminated b1 b2 b3 => injection h with h; exact h ▸ .raised _
  | hdrPid => exact field_outcome nofun h rfl (fun _ _ => rfl)
  | hdrRoute =>
    dsimp only [exec, execHdrRoute] at h
    refine .of_reading h fun a h1 h => ?_
    obtain ⟨h2, b, -, h⟩ | rfl := reading_next h
    · obtain ⟨h3, c, -, h⟩ | rfl := reading_next h
      · obtain ⟨h4, d, -, h⟩ | rfl := reading_next h
        · injection h with h
          subst h
          exact .advances _ nofun ⟨rfl, by simp, .inr h4, .inl rfl, rfl⟩
        · exact .raised _
      · exact .raised _
    · exact .raised _
  | hdrRouteAlt => injection h with h; exact h ▸ .raised _
  | hdrApiNone => injection h with h; subst h; exact absent_outcome nofun rfl (.inl rfl)
  | hdrApi8 => exact field_outcome nofun h rfl (fun _ _ => rfl)
  | hdrApi16 => exact field_outcome nofun h rfl (fun _ _ => rfl)
  | hdrTsNone => injection h with h; subst h; exact absent_outcome nofun rfl (.inl rfl)
  | hdrTs48 => exact field_outcome nofun h rfl (fun _ _ => rfl)
  | hdrSize0 => injection h with h; subst h; exact absent_outcome nofun rfl (.inl rfl)
  | hdrSize32 => exact field_outcome nofun h rfl (fun _ _ => rfl)
  | hdrSize8 => exact field_outcome nofun h rfl (fun _ _ => rfl)
  | hdrSize16 => exact field_outcome nofun h rfl (fun _ _ => rfl)
  | addrN8 => exact normalAddress_outcome nofun h
  | addrN16 => exact normalAddress_outcome nofun h
  | addrN24 => exact normalAddress_outcome nofun h
  | addrN32 => exact normalAddress_outcome nofun h
  | addrM8_0 => exact splitAddress_outcome nofun h
  | addrM6_2 => exact splitAddress_outcome nofun h
  | addrM4_4 => exact splitAddress_outcome nofun h
  | addrM2_6 => exact splitAddress_outcome nofun h
  | dispatchNet =>
    injection h with h
    subst h
    exact .advances _ nofun ⟨rfl, Nat.le_refl _, .inl rfl, .inl rfl, rfl⟩
  | dispatchUnsupported apiId => injection h with h; exact h ▸ .raised _
  | netAck => injection h with h; subst h; exact absent_outcome nofun rfl (.inr rfl)
  | netBeacon => exact readTag_outcome nofun (fun _ => ⟨decoding_ite rfl rfl, rfl⟩) h
  | netReqBeacon => exact readTag_outcome (go := fun s1 => { s1 with phase := .signature }) nofun (fun _ => ⟨rfl, rfl⟩) h
  | netExtBeacon => exact readTag_outcome nofun (fun _ => ⟨decoding_ite rfl rfl, rfl⟩) h
  | netBadTag tag =>
    refine .of_reading h fun _ _ h => ?_
    injection h with h
    exact h ▸ .raised _
  | netEntry dtn active sizeMode addrSize hops =>
    dsimp only [exec, execNetEntry] at h
    refine .of_reading h fun _ _ h => ?_
    obtain ⟨h2, age, -, h⟩ | rfl := reading_next h
    · injection h with h
      subst h
      exact .advances _ nofun ⟨rfl, by simp, .inr h2, .inl rfl, rfl⟩
    · exact .raised _
  | netLinkInfo packetSize speed dlOnly halt =>
    dsimp only [exec, execNetLinkInfo] at h
    refine .of_reading h fun _ hle h => ?_
    rw [finishEntry_eq] at h
    injection h with h
    subst h
    split
    · exact .entryCap
    · rename_i hroom
      exact afterEntry_outcome nofun hle (by simpa using hroom)
  | pktDecode => injection h with h; exact h ▸ .packetStarts rfl
  | pktSgn sgn =>
    cases sgn with
    | true => exact field_outcome nofun h rfl (fun _ _ => rfl)
    | false => injection h with h; subst h; exact absent_outcome nofun rfl (.inl rfl)
  | pktCrc crc =>
    cases crc with
    | true =>
      refine .of_reading h fun v _ h => ?_
      injection h with h
      exact h ▸ .produced true _ rfl
    | false => injection h with h; exact h ▸ .produced false _ rfl
  | feedFrame => injection h with h; exact h ▸ .frameHandedOver rfl
  | feedNeedMore last => injection h with h; exact h ▸ .needsMore last rfl

/-! ### What a step runs -/

/-- A step is the operation that the decoder reads from the selector word, a read error where that word is missing, or an input of
the host. -/
theorem step_cases (s : State) :
    (selector s = none ∧ step s = takeInput s) ∨
      (∃ sel i, selector s = some sel ∧ decode sel = .op i ∧ step s = exec i s) ∨
      (∃ sel why, selector s = some sel ∧ decode sel = .short why ∧ step s = raiseError .insufficientData s) := by
  unfold step fetch
  cases h : selector s with
  | none => exact .inl ⟨rfl, rfl⟩
  | some sel =>
    cases hd : decode sel with
    | op i => exact .inr (.inl ⟨sel, i, rfl, hd, by simp [hd]⟩)
    | short why => exact .inr (.inr ⟨sel, why, rfl, hd, by simp [hd]⟩)

/-- Only the idle block has no selector. -/
theorem selector_eq_none {s : State} : selector s = none ↔ s.phase = .idle := by
  unfold selector
  cases s.phase <;> simp

end Sys2Proof.Machine
end

