-- ==== Sys2Proof/Laws/Decode.lean ====
section
/-! SUPPORT. Which stage runs which operation, and what the operands of a fetched operation are. -/

namespace Sys2Proof.Machine

/-- The stage that looks at a selector. -/
def selectorStage : Selector → Phase
  | .flags _ => .flags
  | .pid _ => .pid
  | .route _ => .route
  | .api _ => .api
  | .timestamp _ => .timestamp
  | .size _ => .size
  | .signature _ => .signature
  | .crc _ => .crc
  | .dispatch _ => .dispatch
  | .payload _ _ => .network
  | .entry _ => .entry
  | .address _ => .address
  | .link _ => .link
  | .packet => .packet
  | .last _ => .boundary

theorem selectorStage_eq {s : State} {sel : Selector} (h : selector s = some sel) : selectorStage sel = s.phase := by
  unfold selector at h
  cases hp : s.phase <;> simp only [hp, reduceCtorEq, Option.some.injEq] at h <;> subst h <;> rfl

theorem stageOf_decodeFlagBytes (left : List Byte) : stageOf (decodeFlagBytes left) = .flags := by
  unfold decodeFlagBytes
  repeat' split
  all_goals rfl

theorem stageOf_decodeTag (tag : Byte) : stageOf (decodeTag tag) = .network := by
  unfold decodeTag
  repeat' split
  all_goals rfl

theorem stageOf_decodeAddressForm (e : Byte) : stageOf (decodeAddressForm e) = .address := by
  unfold decodeAddressForm
  repeat' split
  all_goals rfl

theorem stageOf_decodeApi (f : FlagsWord) : stageOf (decodeApi f) = .api := by
  unfold decodeApi
  repeat' split
  all_goals rfl

theorem stageOf_decodeSize (f : FlagsWord) : stageOf (decodeSize f) = .size := by
  unfold decodeSize
  split <;> rfl

/-- The decoder gives an operation of the selector's own family (R89). -/
theorem stageOf_decode {sel : Selector} {i : Instr} (h : decode sel = .op i) : stageOf i = selectorStage sel := by
  cases sel with
  | flags left => injection h with h; exact h ▸ stageOf_decodeFlagBytes left
  | pid f => injection h with h; exact h ▸ rfl
  | route f => injection h with h; subst h; split <;> rfl
  | api f => injection h with h; exact h ▸ stageOf_decodeApi f
  | timestamp f => injection h with h; subst h; split <;> rfl
  | size f => injection h with h; exact h ▸ stageOf_decodeSize f
  | signature f => injection h with h; exact h ▸ rfl
  | crc f => injection h with h; exact h ▸ rfl
  | dispatch a => injection h with h; subst h; split <;> rfl
  | payload n t =>
    simp only [decode] at h
    split at h
    · injection h with h; exact h ▸ rfl
    · cases t with
      | none => cases h
      | some tag => injection h with h; exact h ▸ stageOf_decodeTag tag
  | entry e =>
    cases e with
    | none => cases h
    | some b => injection h with h; exact h ▸ rfl
  | address e => injection h with h; exact h ▸ stageOf_decodeAddressForm e
  | link l =>
    cases l with
    | none => cases h
    | some b => injection h with h; exact h ▸ rfl
  | packet => injection h with h; exact h ▸ rfl
  | last b => injection h with h; subst h; split <;> rfl

/-- A step runs an operation of the stage in progress. -/
theorem stageOf_fetched {s : State} {sel : Selector} {i : Instr} (h : selector s = some sel) (hd : decode sel = .op i) :
    stageOf i = s.phase :=
  (stageOf_decode hd).trans (selectorStage_eq h)

/-- FEED.FRAME is fetched only where the buffer ends in the sentinel (R222). -/
theorem lastByte_of_fetched_feedFrame {s : State} {sel : Selector} (h : selector s = some sel)
    (hd : decode sel = .op .feedFrame) : s.phase = .boundary ∧ lastByte (activeBuf s) = some Config.sentinel := by
  have hp : s.phase = .boundary := (stageOf_fetched h hd).symm
  refine ⟨hp, ?_⟩
  have hs : sel = .last (lastByte (activeBuf s)) := by simpa [selector, hp, eq_comm] using h
  subst hs
  simp only [decode, Decoded.op.injEq] at hd
  split at hd
  · assumption
  · cases hd

/-- FEED.NEEDMORE is fetched only where it does not (R224). -/
theorem lastByte_of_fetched_feedNeedMore {s : State} {sel : Selector} {b : Option Byte} (h : selector s = some sel)
    (hd : decode sel = .op (.feedNeedMore b)) : s.phase = .boundary ∧ lastByte (activeBuf s) ≠ some Config.sentinel := by
  have hp : s.phase = .boundary := (stageOf_fetched h hd).symm
  refine ⟨hp, ?_⟩
  have hs : sel = .last (lastByte (activeBuf s)) := by simpa [selector, hp, eq_comm] using h
  subst hs
  simp only [decode, Decoded.op.injEq] at hd
  split at hd
  · cases hd
  · assumption

end Sys2Proof.Machine
end

