-- ==== Sys2Proof/Laws/PerInstr.lean ====
section
/-! SUPPORT. The family `RoundTrip` of LAWS.json: what the decoder makes of one operation's own selector words, operation by operation. -/

namespace Sys2Proof.Laws.RoundTrip

/-- The selector words of a well-formed operation decode to that operation. -/
def Statement (i : Instr) : Prop := i.wellFormed = true → decode (encode i) = .op i

theorem flagsLen1 (b1 : Byte) : Statement (.flagsLen1 b1) := by
  intro h
  simpa [encode, decode, decodeFlagBytes, Instr.wellFormed] using h

theorem flagsLen2 (b1 b2 : Byte) : Statement (.flagsLen2 b1 b2) := by
  intro h
  simp_all [encode, decode, decodeFlagBytes, Instr.wellFormed]

theorem flagsLen3 (b1 b2 b3 : Byte) : Statement (.flagsLen3 b1 b2 b3) := by
  intro h
  simp_all [encode, decode, decodeFlagBytes, Instr.wellFormed]

theorem flagsShort (left : List Byte) : Statement (.flagsShort left) := by
  intro h
  match left, h with
  | [], _ => rfl
  | [b1], h => simp_all [encode, decode, decodeFlagBytes, Instr.wellFormed]
  | [b1, b2], h => simp_all [encode, decode, decodeFlagBytes, Instr.wellFormed]
  | _ :: _ :: _ :: left, h =>
    rw [Instr.wellFormed, Bool.and_eq_true] at h
    have hlen := of_decide_eq_true h.1
    simp only [List.length_cons, Config.flagsMaxBytes] at hlen
    omega

theorem flagsUnterminated (b1 b2 b3 : Byte) : Statement (.flagsUnterminated b1 b2 b3) := by
  intro h
  simp_all [encode, decode, decodeFlagBytes, Instr.wellFormed]

theorem hdrPid : Statement .hdrPid := fun _ => rfl
theorem hdrRoute : Statement .hdrRoute := fun _ => rfl
theorem hdrRouteAlt : Statement .hdrRouteAlt := fun _ => rfl
theorem hdrApiNone : Statement .hdrApiNone := fun _ => rfl
theorem hdrApi8 : Statement .hdrApi8 := fun _ => rfl
theorem hdrApi16 : Statement .hdrApi16 := fun _ => rfl
theorem hdrTsNone : Statement .hdrTsNone := fun _ => rfl
theorem hdrTs48 : Statement .hdrTs48 := fun _ => rfl
theorem hdrSize0 : Statement .hdrSize0 := fun _ => rfl
theorem hdrSize32 : Statement .hdrSize32 := fun _ => rfl
theorem hdrSize8 : Statement .hdrSize8 := fun _ => rfl
theorem hdrSize16 : Statement .hdrSize16 := fun _ => rfl
theorem addrN8 : Statement .addrN8 := fun _ => rfl
theorem addrN16 : Statement .addrN16 := fun _ => rfl
theorem addrN24 : Statement .addrN24 := fun _ => rfl
theorem addrN32 : Statement .addrN32 := fun _ => rfl
theorem addrM8_0 : Statement .addrM8_0 := fun _ => rfl
theorem addrM6_2 : Statement .addrM6_2 := fun _ => rfl
theorem addrM4_4 : Statement .addrM4_4 := fun _ => rfl
theorem addrM2_6 : Statement .addrM2_6 := fun _ => rfl
theorem dispatchNet : Statement .dispatchNet := fun _ => rfl

theorem dispatchUnsupported (apiId : BitVec 16) : Statement (.dispatchUnsupported apiId) := by
  intro h
  simp_all [encode, decode, Instr.wellFormed]

theorem netAck : Statement .netAck := fun _ => rfl
theorem netBeacon : Statement .netBeacon := fun _ => rfl
theorem netReqBeacon : Statement .netReqBeacon := fun _ => rfl
theorem netExtBeacon : Statement .netExtBeacon := fun _ => rfl

theorem netBadTag (tag : Byte) : Statement (.netBadTag tag) := by
  intro h
  simp_all [encode, decode, decodeTag, knownTag, Instr.wellFormed]

theorem netEntry (dtn active sizeMode : Bool) (addrSize : BitVec 2) (hops : BitVec 3) :
    Statement (.netEntry dtn active sizeMode addrSize hops) := by
  intro _
  revert dtn active sizeMode addrSize hops
  decide

theorem netLinkInfo (packetSize speed : BitVec 3) (dlOnly halt : Bool) :
    Statement (.netLinkInfo packetSize speed dlOnly halt) := by
  intro _
  revert packetSize speed dlOnly halt
  decide

theorem pktDecode : Statement .pktDecode := fun _ => rfl

theorem pktSgn (sgn : Bool) : Statement (.pktSgn sgn) := by
  intro _
  cases sgn <;> rfl

theorem pktCrc (crc : Bool) : Statement (.pktCrc crc) := by
  intro _
  cases crc <;> rfl

theorem feedFrame : Statement .feedFrame := fun _ => rfl

theorem feedNeedMore (last : Option Byte) : Statement (.feedNeedMore last) := by
  intro h
  simp_all [encode, decode, Instr.wellFormed]

end Sys2Proof.Laws.RoundTrip
end

