-- ==== Sys2Proof/Laws/Shape.lean ====
section
/-! SUPPORT. The small laws of the shapes of Sys2Proof/Safety.lean: what each stage settles looks at the registers written up to that
stage and at no later one. -/

namespace Sys2Proof.Machine

/-! ### Registers at rest -/

@[simp] theorem packetShape_blank : packetShape Packet.blank = true := by decide

@[simp] theorem stageShape_finish (f : Stream → Stream) (s : State) : stageShape (finish f s) = true := rfl

/-! ### A later register is not looked at -/

@[simp] theorem flagsDecoded_pid (p : Packet) (v : BitVec 16) : flagsDecoded { p with pid := v } = flagsDecoded p := rfl

@[simp] theorem flagsDecoded_route (p : Packet) (a b : RouteId) : flagsDecoded { p with route0 := a, route1 := b } = flagsDecoded p := rfl

@[simp] theorem routeDecoded_route (p : Packet) (a b : RouteId) : routeDecoded { p with route0 := a, route1 := b } = routeDecoded p := rfl

@[simp] theorem routeDecoded_apiId (p : Packet) (v : BitVec 16) : routeDecoded { p with apiId := v } = routeDecoded p := rfl

@[simp] theorem apiDecoded_timestamp (p : Packet) (v : BitVec 64) : apiDecoded { p with timestamp := v } = apiDecoded p := rfl

@[simp] theorem timestampDecoded_payloadSize (p : Packet) (v : BitVec 32) :
    timestampDecoded { p with payloadSize := v } = timestampDecoded p := rfl

@[simp] theorem networkDispatched_payload (p : Packet) (t : PayloadTag) (es : List Entry) :
    networkDispatched { p with ptag := t, entries := es } = networkDispatched p := rfl

@[simp] theorem networkDispatched_entries (p : Packet) (es : List Entry) :
    networkDispatched { p with entries := es } = networkDispatched p := rfl

@[simp] theorem networkDispatched_signature (p : Packet) (v : BitVec 16) :
    networkDispatched { p with signature := v } = networkDispatched p := rfl

@[simp] theorem signatureDecoded_crcValue (p : Packet) (v : BitVec 16) :
    signatureDecoded { p with crcValue := v } = signatureDecoded p := rfl

@[simp] theorem packetShape_crcValue (p : Packet) (v : BitVec 16) : packetShape { p with crcValue := v } = packetShape p := rfl

@[simp] theorem packetShape_signature (p : Packet) (v : BitVec 16) : packetShape { p with signature := v } = packetShape p := rfl

/-! ### The flags word that the flags operations write -/

theorem getLsbD_packFlags (b1 b2 b3 : Byte) (i : Nat) :
    (packFlags b1 b2 b3).getLsbD i =
      if i < 8 then b1.getLsbD i else if i < 16 then b2.getLsbD (i - 8) else b3.getLsbD (i - 16) := by
  by_cases h1 : i < 8
  · simp [packFlags, h1, show i < 16 by omega, show i < 24 by omega]
  · by_cases h2 : i < 16
    · simp [packFlags, h1, h2, show i < 24 by omega, BitVec.getLsbD_of_ge b1 i (by omega)]
    · by_cases h3 : i < 24
      · simp [packFlags, h1, h2, h3, BitVec.getLsbD_of_ge b1 i (by omega), BitVec.getLsbD_of_ge b2 (i - 8) (by omega)]
      · simp [packFlags, h1, h2, h3, BitVec.getLsbD_of_ge b3 (i - 16) (by omega)]

end Sys2Proof.Machine
end

