-- ==== Sys2Proof/Tests/Slice0.lean ====
section
/-! SUPPORT. Small tests. Expected values are those of the worked examples of the rules and of spec/95_test_vectors.md (`V<n>`, `P<n>`).
The witnesses show for each statement with hypotheses a concrete state that meets them, clause by clause. -/

namespace Sys2Proof.Tests

open Sys2Proof.Machine

/-! ### Helpers -/

def bytes (l : List Nat) : List Byte := l.map (BitVec.ofNat 8)

/-- The block at a stage, with the frame `l`, the cursor at its start. -/
def staged (stage : Phase) (l : List Nat) : State := { State.reset with phase := stage, frm := bytes l }

/-- As `staged`, with the flags word `f` decoded. -/
def flagged (stage : Phase) (f : FlagsWord) (l : List Nat) : State :=
  { staged stage l with fields := { Packet.blank with flags := f, flen := 3 } }

/-- At the payload, with declared size `n`. -/
def declaring (n : BitVec 32) (l : List Nat) : State :=
  { staged .network l with fields := { Packet.blank with payloadSize := n } }

/-- In an entry of a payload with the tag `tag`, whose flag byte is `e`; of the `n` declared bytes the tag byte is counted so far. -/
def inEntry (stage : Phase) (tag : PayloadTag) (n : BitVec 32) (e : Byte) (l : List Nat) : State :=
  { staged stage l with
    fields := { Packet.blank with ptag := tag, payloadSize := n }, entry := entryOfFlagByte e, consumed := 1 }

/-- One stream with the buffer `l`, about to be tested for a boundary. -/
def buffered (l : List Nat) : State :=
  { State.reset with streams := [{ Stream.fresh with buf := bytes l }], phase := .boundary }

/-- Idle, one stream with the buffer `l`, and the host's inputs. -/
def asked (p : Params) (l : List Nat) (inputs : List Input) : State :=
  { State.reset with params := p, streams := [{ Stream.fresh with buf := bytes l }], inputs := inputs }

/-- The outcome is a next state of which `p` holds. -/
def gives (o : Result) (p : State → Bool) : Bool :=
  match o with
  | .next t => p t
  | .fault _ | .refused _ => false

/-- The response of stream 0. -/
def answer (s : State) : Option Response := (s.streams[0]?).bind Stream.response

/-- The outcome is the error `k`. -/
def raises (o : Result) (k : ErrorKind) : Bool :=
  gives o fun t => t.phase == .idle && t.frm == [] && answer t == some (.decodeError k)

/-- The response to the frame `l` fed whole to a fresh stream. -/
def fed (l : List Nat) : Option Response := (feed Params.unbounded 0 Stream.fresh (bytes l)).response

/-! ### WellFormed refuses ill-formed terms -/

theorem test_wf_refuses_len1_without_terminator : (Instr.flagsLen1 0x7F#8).wellFormed = false := by decide
theorem test_wf_refuses_len2_with_early_terminator : (Instr.flagsLen2 0x80#8 0x80#8).wellFormed = false := by decide
theorem test_wf_refuses_len2_without_terminator : (Instr.flagsLen2 0x00#8 0x00#8).wellFormed = false := by decide
theorem test_wf_refuses_len3_with_early_terminator : (Instr.flagsLen3 0x00#8 0x80#8 0x80#8).wellFormed = false := by decide
theorem test_wf_refuses_short_of_three_bytes :
    (Instr.flagsShort [0x00#8, 0x00#8, 0x00#8]).wellFormed = false := by decide
theorem test_wf_refuses_short_with_terminator : (Instr.flagsShort [0x80#8]).wellFormed = false := by decide
theorem test_wf_refuses_unterminated_with_terminator :
    (Instr.flagsUnterminated 0x00#8 0x00#8 0x80#8).wellFormed = false := by decide
theorem test_wf_refuses_unsupported_api_zero : (Instr.dispatchUnsupported 0#16).wellFormed = false := by decide
theorem test_wf_refuses_bad_tag_that_is_known : (Instr.netBadTag 0x05#8).wellFormed = false := by decide
theorem test_wf_refuses_need_more_at_sentinel : (Instr.feedNeedMore (some 0xC0#8)).wellFormed = false := by decide

/-! ### Decoding: words written out from the encodings -/

/-- V10, V14, V16, V17, V20 (R73). -/
theorem test_decode_flags :
    decode (.flags [0b10000000#8]) = .op (.flagsLen1 0x80#8) ∧
    decode (.flags [0b00100001#8, 0b10011010#8, 0b10100111#8]) = .op (.flagsLen2 0x21#8 0x9A#8) ∧
    decode (.flags [0b01111111#8, 0b01111111#8, 0b11111111#8]) = .op (.flagsLen3 0x7F#8 0x7F#8 0xFF#8) ∧
    decode (.flags [0b00000000#8, 0b00000000#8, 0b00000000#8]) = .op (.flagsUnterminated 0x00#8 0x00#8 0x00#8) ∧
    decode (.flags [0b01111111#8, 0b00000000#8]) = .op (.flagsShort [0x7F#8, 0x00#8]) := by decide

/-- The flags words of V1 (`0x9A21`), V24 (`0x84`), V25 (`0xC004`), V23 (`0xC0`). -/
theorem test_decode_pid_route_api :
    decode (.pid 0b000000001001101000100001#24) = .op .hdrPid ∧
    decode (.route 0b000000001001101000100001#24) = .op .hdrRoute ∧
    decode (.route 0b000000000000000011000000#24) = .op .hdrRouteAlt ∧
    decode (.api 0b000000001100000000000000#24) = .op .hdrApiNone ∧
    decode (.api 0b000000000000000010000100#24) = .op .hdrApi8 ∧
    decode (.api 0b000000001100000000000100#24) = .op .hdrApi16 := by decide

/-- V22, V30, V26, V28, V29. -/
theorem test_decode_timestamp_size :
    decode (.timestamp 0b000000000000000010000000#24) = .op .hdrTsNone ∧
    decode (.timestamp 0b000000001001000000000000#24) = .op .hdrTs48 ∧
    decode (.size 0b000000000000000010000000#24) = .op .hdrSize0 ∧
    decode (.size 0b000000001010000000000000#24) = .op .hdrSize32 ∧
    decode (.size 0b000000000000000010100000#24) = .op .hdrSize8 ∧
    decode (.size 0b000000001010000000100000#24) = .op .hdrSize16 := by decide

/-- `E[5:3]` of R81 and R82, with the other bits set and clear. -/
theorem test_decode_address :
    decode (.address 0b11000111#8) = .op .addrN8 ∧ decode (.address 0b11001111#8) = .op .addrN16 ∧
    decode (.address 0b11010111#8) = .op .addrN24 ∧ decode (.address 0b00011000#8) = .op .addrN32 ∧
    decode (.address 0b11100111#8) = .op .addrM8_0 ∧ decode (.address 0b00101000#8) = .op .addrM6_2 ∧
    decode (.address 0b01110000#8) = .op .addrM4_4 ∧ decode (.address 0b00111111#8) = .op .addrM2_6 := by decide

/-- R185, R186, R171, R173 to R175, R177. -/
theorem test_decode_dispatch_payload :
    decode (.dispatch 0x0000#16) = .op .dispatchNet ∧ decode (.dispatch 0x0100#16) = .op (.dispatchUnsupported 0x0100#16) ∧
    decode (.payload 0#32 (some 0x09#8)) = .op .netAck ∧ decode (.payload 4#32 (some 0x00#8)) = .op .netBeacon ∧
    decode (.payload 1#32 (some 0x01#8)) = .op .netReqBeacon ∧ decode (.payload 5#32 (some 0x05#8)) = .op .netExtBeacon ∧
    decode (.payload 2#32 (some 0x09#8)) = .op (.netBadTag 0x09#8) := by decide

/-- R80 on `0x8A` (V68) and R84 on `0xBF`. -/
theorem test_decode_entry_link :
    decode (.entry (some 0b10001010#8)) = .op (.netEntry true false false 1#2 2#3) ∧
    decode (.entry (some 0b01110000#8)) = .op (.netEntry false true true 2#2 0#3) ∧
    decode (.link (some 0b10111111#8)) = .op (.netLinkInfo 7#3 7#3 false true) ∧
    decode (.link (some 0b01000001#8)) = .op (.netLinkInfo 1#3 0#3 true false) := by decide

/-- R85, R222, R224. -/
theorem test_decode_packet_trailer_frame :
    decode .packet = .op .pktDecode ∧
    decode (.signature 0b000000001000000100000000#24) = .op (.pktSgn true) ∧
    decode (.signature 0b000000001000001000000000#24) = .op (.pktSgn false) ∧
    decode (.crc 0b000000001000001000000000#24) = .op (.pktCrc true) ∧
    decode (.crc 0b000000001000000100000000#24) = .op (.pktCrc false) ∧
    decode (.last (some 0b11000000#8)) = .op .feedFrame ∧
    decode (.last (some 0b10011010#8)) = .op (.feedNeedMore (some 0x9A#8)) ∧
    decode (.last none) = .op (.feedNeedMore none) := by decide

/-- The selector bytes that can be missing are rejected by name. -/
theorem test_decode_missing_selector_byte :
    decode (.payload 1#32 none) = .short .noTagByte ∧ decode (.entry none) = .short .noEntryByte ∧
    decode (.link none) = .short .noLinkByte := by decide

/-- Words of spec/opcode_table.json. -/
theorem test_decode_table_words :
    decodeTableWord 24 0x008000 = some (.flagsLen2 0x00#8 0x80#8) ∧ decodeTableWord 24 0x004004 = some .hdrApi16 ∧
    decodeTableWord 24 0x002020 = some .hdrSize16 ∧ decodeTableWord 8 0x30 = some .addrM4_4 ∧
    decodeTableWord 16 0x0000 = some .dispatchNet ∧ decodeTableWord 32 0x00000000 = some .netAck ∧
    decodeTableWord 8 0x05 = some .netExtBeacon ∧ decodeTableWord 24 0x000200 = some (.pktCrc true) ∧
    decodeTableWord 8 0xC0 = some .feedFrame := by decide

/-! ### One step each -/

/-- V11. -/
theorem test_flags_len1 : gives (step (staged .flags [0xFF, 0x00])) (fun t =>
    t.fields.flags == 0x0000FF#24 && t.fields.flen == 1#2 && t.cur == 1 && t.phase == .pid) = true := by decide
/-- V14. -/
theorem test_flags_len2 : gives (step (staged .flags [0x21, 0x9A, 0xA7])) (fun t =>
    t.fields.flags == 0x009A21#24 && t.fields.flen == 2#2 && t.cur == 2) = true := by decide
/-- V16. -/
theorem test_flags_len3 : gives (step (staged .flags [0x7F, 0x7F, 0xFF])) (fun t =>
    t.fields.flags == 0xFF7F7F#24 && t.fields.flen == 3#2 && t.cur == 3) = true := by decide
/-- V18. -/
theorem test_flags_unterminated : raises (step (staged .flags [0x00, 0x00, 0x00, 0x80])) .malformedHeader = true := by decide
/-- V20, V21. -/
theorem test_flags_short : raises (step (staged .flags [0x7F, 0x00])) .malformedHeader = true ∧
    raises (step (staged .flags [])) .malformedHeader = true := by decide
/-- R121's example and V37. -/
theorem test_hdr_pid : gives (step (flagged .pid 0x80#24 [0xA7, 0x07])) (fun t => t.fields.pid == 1959#16 && t.cur == 2) = true ∧
    raises (step (flagged .pid 0x80#24 [0xC0])) .insufficientData = true := by decide
/-- R123's example. -/
theorem test_hdr_route : gives (step (flagged .route 0x80#24 [0x01, 0x0F, 0x02, 0xC0])) (fun t =>
    t.fields.route0 == ⟨1, 15⟩ && t.fields.route1 == ⟨2, 192⟩ && t.cur == 4) = true := by decide
/-- R124's example. -/
theorem test_hdr_route_alt : raises (step (flagged .route 0xC0#24 [0xC0])) .unsupportedRouteFormat = true := by decide
/-- R126's example. -/
theorem test_hdr_api_none : gives (step (flagged .api 0xC000#24 [0x07])) (fun t =>
    t.fields.apiId == 0#16 && t.cur == 0 && t.phase == .timestamp) = true := by decide
/-- R127's example. -/
theorem test_hdr_api8 : gives (step (flagged .api 0x84#24 [0x07, 0xC0])) (fun t => t.fields.apiId == 7#16 && t.cur == 1) = true := by
  decide
/-- R128's example. -/
theorem test_hdr_api16 : gives (step (flagged .api 0xC004#24 [0x34, 0x12])) (fun t =>
    t.fields.apiId == 0x1234#16 && t.cur == 2) = true := by decide
/-- R129's example. -/
theorem test_hdr_ts_none : gives (step (flagged .timestamp 0x80#24 [])) (fun t =>
    t.fields.timestamp == 0#64 && t.cur == 0 && t.phase == .size) = true := by decide
/-- R130's example and V31. -/
theorem test_hdr_ts48 : gives (step (flagged .timestamp 0x9000#24 [0xEF, 0x8C, 0xD7, 0x32, 0x8E, 0x01])) (fun t =>
      t.fields.timestamp == 1710249970927#64 && t.cur == 6) = true ∧
    raises (step (flagged .timestamp 0x9000#24 [0x01, 0x02, 0x03, 0xC0])) .insufficientData = true := by decide
/-- R132's example. -/
theorem test_hdr_size0 : gives (step (flagged .size 0x80#24 [0x05])) (fun t =>
    t.fields.payloadSize == 0#32 && t.cur == 0 && t.phase == .dispatch) = true := by decide
/-- R133's example. -/
theorem test_hdr_size32 : gives (step (flagged .size 0xA000#24 [0x05, 0x00, 0x00, 0x01])) (fun t =>
    t.fields.payloadSize == 0x01000005#32 && t.cur == 4) = true := by decide
/-- V33: the sentinel is read as the size. -/
theorem test_hdr_size8 : gives (step (flagged .size 0xA0#24 [0xC0])) (fun t =>
    t.fields.payloadSize == 192#32 && t.cur == 1) = true := by decide
/-- V29 and V32. -/
theorem test_hdr_size16 : gives (step (flagged .size 0xA020#24 [0x01, 0x00])) (fun t =>
      t.fields.payloadSize == 1#32 && t.cur == 2) = true ∧
    raises (step (flagged .size 0xA020#24 [0xC0])) .insufficientData = true := by decide

/-- The entry appended by one address step under a `Beacon` tag with enough declared bytes. -/
def beaconEntry (e : Byte) (l : List Nat) (address : BitVec 32) (qualifier : BitVec 8) (read : Nat) : Bool :=
  gives (step (inEntry .address .beacon 9 e l)) fun t =>
    t.fields.entries == [{ entryOfFlagByte e with address := address, qualifier := qualifier }] && t.cur == read
      && t.consumed == 1 + read && t.phase == .entry

/-- V40. -/
theorem test_addr_n8 : beaconEntry 0x00#8 [0x2A, 0x03] 42 3 2 = true := by decide
/-- V41 and V46. -/
theorem test_addr_n16 : beaconEntry 0x08#8 [0x34, 0x12, 0x07] 4660 7 3 = true ∧
    raises (step (inEntry .address .beacon 9 0x08#8 [0x34, 0x12])) .insufficientData = true := by decide
/-- V42 and V43. -/
theorem test_addr_n24 : beaconEntry 0x10#8 [0x56, 0x34, 0x12, 0x09] 1193046 9 4 = true ∧
    beaconEntry 0x10#8 [0xFF, 0xFF, 0xFF, 0x00] 16777215 0 4 = true := by decide
/-- V44. -/
theorem test_addr_n32 : beaconEntry 0x18#8 [0x78, 0x56, 0x34, 0x12, 0x00] 305419896 0 5 = true := by decide
/-- V47. -/
theorem test_addr_m8_0 : beaconEntry 0x20#8 [0x1F] 31 0 1 = true := by decide
/-- V48 and V50. -/
theorem test_addr_m6_2 : beaconEntry 0x28#8 [0x49] 18 1 1 = true ∧ beaconEntry 0x28#8 [0xFF] 63 3 1 = true := by decide
/-- V51 and V54. -/
theorem test_addr_m4_4 : beaconEntry 0x30#8 [0x1F] 1 15 1 = true ∧
    raises (step (inEntry .address .beacon 9 0x30#8 [])) .insufficientData = true := by decide
/-- V52 and V53. -/
theorem test_addr_m2_6 : beaconEntry 0x38#8 [0x1F] 0 31 1 = true ∧ beaconEntry 0x38#8 [0xC0] 3 0 1 = true := by decide
/-- R185. -/
theorem test_dispatch_net : gives (step (staged .dispatch [])) (fun t => t.phase == .network) = true := by decide
/-- R186's example. -/
theorem test_dispatch_unsupported :
    raises (step { staged .dispatch [] with fields := { Packet.blank with apiId := 7 } }) .unsupportedApi = true := by decide
/-- V60. -/
theorem test_net_ack : gives (step (declaring 0 [0x05])) (fun t =>
    t.fields.ptag == .ack && t.fields.entries == [] && t.cur == 0 && t.phase == .signature) = true := by decide
/-- V63: a declared size of 1 leaves no entry; V66: a larger one does. -/
theorem test_net_beacon : gives (step (declaring 1 [0x00])) (fun t => t.fields.ptag == .beacon && t.phase == .signature) = true ∧
    gives (step (declaring 4 [0x00, 0x70])) (fun t => t.consumed == 1 && t.cur == 1 && t.phase == .entry) = true := by decide
/-- V62. -/
theorem test_net_reqbeacon : gives (step (declaring 5 [0x01, 0xAA, 0xBB])) (fun t =>
    t.fields.ptag == .requestBeacon && t.cur == 1 && t.phase == .signature) = true := by decide
/-- V64 and V69. -/
theorem test_net_extbeacon : gives (step (declaring 1 [0x05])) (fun t =>
      t.fields.ptag == .extendedBeacon && t.phase == .signature) = true ∧
    gives (step (declaring 5 [0x05, 0x70])) (fun t => t.fields.ptag == .extendedBeacon && t.phase == .entry) = true := by decide
/-- V65 and V73. -/
theorem test_net_badtag : raises (step (declaring 2 [0x09])) .unsupportedNetworkPacketType = true ∧
    raises (step (declaring 1 [])) .insufficientData = true := by decide
/-- V68's second entry. -/
theorem test_net_entry : gives (step (inEntry .entry .beacon 9 0x00#8 [0x8A, 0x20])) (fun t =>
    t.entry == { Entry.blank with dtn := true, addrSize := 1, hops := 2, age := 32 } && t.cur == 2 && t.phase == .address) = true := by
  decide
/-- R179's example; an entry of `ExtendedBeacon` reaches it from its address. -/
theorem test_net_linkinfo : gives (step (inEntry .link .extendedBeacon 2 0x70#8 [0xBF])) (fun t =>
      t.fields.entries.map Entry.link == [some ⟨7, 7, false, true⟩] && t.cur == 1 && t.phase == .signature) = true ∧
    gives (step (inEntry .address .extendedBeacon 5 0x70#8 [0x1F, 0xBF])) (fun t =>
      t.fields.entries == [] && t.phase == .link) = true := by decide
/-- R200. -/
theorem test_pkt_decode : gives (step (flagged .packet 0xFFFFFF#24 [0x80])) (fun t =>
    t.fields == Packet.blank && t.cur == 0 && t.phase == .flags) = true := by decide
/-- R202's example and V85. -/
theorem test_pkt_sgn : gives (step (flagged .signature 0x8300#24 [0x34, 0x12])) (fun t =>
      t.fields.signature == 0x1234#16 && t.cur == 2) = true ∧
    raises (step (flagged .signature 0x8100#24 [0xC0])) .insufficientData = true := by decide
/-- V83: the sentinel is the high byte of the CRC. -/
theorem test_pkt_crc : gives (step (flagged .crc 0x8200#24 [0xE4, 0xC0])) (fun t =>
    answer t == some (.produced { Packet.blank with flags := 0x8200#24, flen := 3, crcValue := 0xC0E4 })
      && t.phase == .idle) = true := by decide
/-- R223. -/
theorem test_feed_frame : gives (step (buffered [0x80, 0xC0])) (fun t =>
    t.frm == bytes [0x80, 0xC0] && t.streams.map Stream.buf == [[]] && t.phase == .packet) = true := by decide
/-- V104 and R224. -/
theorem test_feed_needmore : gives (step (buffered [0xC0, 0x80])) (fun t =>
    answer t == some .needMoreData && t.streams.map Stream.buf == [bytes [0xC0, 0x80]] && t.phase == .idle) = true := by decide

/-! ### Whole frames -/

/-- V1, with `addr_size` 2 as the layout gives it. -/
theorem test_v1 : fed [0x21, 0x9A, 0xA7, 0x07, 0x01, 0x0F, 0x00, 0x00, 0xEF, 0x8C, 0xD7, 0x32, 0x8E, 0x01, 0x05, 0x05, 0x70, 0x00,
      0x1F, 0xBF, 0xE4, 0xF3, 0xC0] =
    some (.produced {
      flags := 0x9A21, flen := 2, pid := 1959, route0 := ⟨1, 15⟩, route1 := ⟨0, 0⟩, apiId := 0,
      timestamp := 1710249970927, payloadSize := 5, ptag := .extendedBeacon,
      entries := [{ Entry.blank with
        active := true, sizeMode := true, addrSize := 2, address := 1, qualifier := 15, link := some ⟨7, 7, false, true⟩ }],
      signature := 0, crcValue := 62436 }) := by decide
/-- V88: an overrun reads the trailer from later bytes, and is no error. -/
theorem test_v88 : fed [0x20, 0x82, 0x03, 0x00, 0x00, 0x00, 0x00, 0x00, 0x03, 0x00, 0x28, 0x05, 0xE4, 0xF3, 0xC0] =
    some (.produced { Packet.blank with
      flags := 0x8220, flen := 2, pid := 3, payloadSize := 3, ptag := .beacon,
      entries := [{ Entry.blank with sizeMode := true, addrSize := 1, age := 5, address := 57 }], crcValue := 0xC0F3 }) := by decide
/-- V90, V91, V23, V80. -/
theorem test_error_frames :
    fed [0x00, 0x00, 0x00, 0xC0] = some (.decodeError .malformedHeader) ∧ fed [0xC0] = some (.decodeError .insufficientData) ∧
    fed [0xC0, 0x00, 0x00, 0xC0] = some (.decodeError .unsupportedRouteFormat) ∧
    fed [0x84, 0x01, 0x00, 0x00, 0x00, 0x00, 0x00, 0x07, 0xC0] = some (.decodeError .unsupportedApi) := by decide
/-- V109. -/
theorem test_v109 : gives (step (asked ⟨some 4, none⟩ [0x80, 0x00, 0x00] [.feed 0 (bytes [0x01, 0x02])])) (fun t =>
    t.streams == [{ Stream.fresh with buf := bytes [0x80, 0x00, 0x00], stopped := some .bufferCapExceeded }]
      && t.phase == .idle) = true := by decide
/-- R280. -/
theorem test_reset_of_stream : gives (step (asked Params.unbounded [0x80] [.reset 0])) (fun t => t == State.reset) = true := by decide
/-- Memory is in canonical form at reset. -/
theorem test_reset_memory_wf : Memory.wf State.reset.frm = true ∧ State.reset.streams.all (fun d => Memory.wf d.buf) = true := by decide

/-! ### Witnesses: the hypotheses of each statement hold of a concrete state, clause by clause -/

theorem witness_ResetEmptiesBuffers :
    (∃ d, d ∈ (State.built Params.unbounded 1).streams) ∧
    (asked Params.unbounded [0x80] [.reset 0]).phase = .idle ∧
    (asked Params.unbounded [0x80] [.reset 0]).inputs = .reset 0 :: [] ∧
    0 < (asked Params.unbounded [0x80] [.reset 0]).streams.length :=
  ⟨⟨Stream.fresh, by decide⟩, by decide⟩

/-- A chunk that fills the buffer to the capacity, and one that is a byte longer. -/
theorem witness_FeedAppendsOrRefusesChunk :
    let fits := asked ⟨some 4, none⟩ [0x80, 0x00, 0x00] [.feed 0 (bytes [0x01])]
    let tooLong := asked ⟨some 4, none⟩ [0x80, 0x00, 0x00] [.feed 0 (bytes [0x01, 0x02])]
    let d := { Stream.fresh with buf := bytes [0x80, 0x00, 0x00] }
    (fits.phase = .idle ∧ fits.inputs = .feed 0 (bytes [0x01]) :: [] ∧ fits.streams[0]? = some d ∧ d.stopped = none ∧
      withinCap fits.params.bufCap (d.buf.length + (bytes [0x01]).length) = true) ∧
    (tooLong.phase = .idle ∧ tooLong.inputs = .feed 0 (bytes [0x01, 0x02]) :: [] ∧ tooLong.streams[0]? = some d ∧
      withinCap tooLong.params.bufCap (d.buf.length + (bytes [0x01, 0x02]).length) = false) := by decide

theorem witness_FeedOfStoppedStreamHasNoMeaning :
    let d := { Stream.fresh with stopped := some .bufferCapExceeded }
    let s := { State.reset with streams := [d], inputs := [.feed 0 []] }
    (s.phase = .idle ∧ s.inputs = .feed 0 [] :: [] ∧ s.streams[0]? = some d ∧ d.stopped = some .bufferCapExceeded) ∧
    ((asked Params.unbounded [] [.reset 1]).inputs = .reset 1 :: [] ∧
      (asked Params.unbounded [] [.reset 1]).streams.length ≤ inputStream (.reset 1)) ∧
    (State.reset.phase = .idle ∧ State.reset.inputs = []) := by decide

theorem witness_DecodeOfEncodeIsIdentity :
    (Instr.flagsLen3 0x7F#8 0x7F#8 0xFF#8).wellFormed = true ∧ (Instr.flagsShort []).wellFormed = true ∧
    (Instr.netEntry true true true 3#2 7#3).wellFormed = true := by decide

theorem witness_DecodedOperationIsWellFormed :
    decode (.flags [0x7F#8, 0x00#8]) = .op (.flagsShort [0x7F#8, 0x00#8]) ∧ decode (.last none) = .op (.feedNeedMore none) := by
  decide

theorem witness_SelectorsFollowOpcodeTable : (1#32 ≠ 0#32) ∧ (0xFFFFFFFF#32 ≠ 0#32) := by decide

theorem witness_FlagsLengthByTerminatorBits :
    (0x80#8).getLsbD 7 = true ∧ (0x7F#8).getLsbD 7 = false ∧
    ([] : List Byte).length < 3 ∧ (bytes [0x00, 0x7F]).length < 3 ∧ ∀ b ∈ bytes [0x00, 0x7F], b.getLsbD 7 = false := by decide

theorem witness_StepRunsDecodedOperation :
    (selector (flagged .pid 0x80#24 [0x01, 0x00]) = some (.pid 0x80#24) ∧ decode (.pid 0x80#24) = .op .hdrPid) ∧
    (selector (declaring 1 []) = some (.payload 1 none) ∧ decode (.payload 1 none) = .short .noTagByte) ∧
    (selector (staged .entry []) = some (.entry none) ∧ decode (.entry none) = .short .noEntryByte) ∧
    (selector (staged .link []) = some (.link none) ∧ decode (.link none) = .short .noLinkByte) ∧
    selector State.reset = none := by decide

theorem witness_TableWordRunsNext :
    State.reset.active < State.reset.streams.length ∧ decodeTableWord 24 0x800000 = some (.flagsLen3 0x00#8 0x00#8 0x80#8) ∧
    decodeTableWord 8 0xC0 = some .feedFrame := by decide

theorem witness_FlagsOperationsWriteFlagsWord :
    available (staged .flags [0x80]) 1 ∧ available (staged .flags [0x00, 0x80]) 2 ∧
    available (staged .flags [0x00, 0x00, 0x80]) 3 ∧ ¬ available (staged .flags []) 1 ∧
    ¬ available (staged .flags [0x00]) 2 ∧ ¬ available (staged .flags [0x00, 0x00]) 3 := by decide

/-- The three lengths, no terminator within three bytes, and the chain cut short after 0, 1 and 2 bytes. -/
theorem witness_FlagsStepFollowsTerminatorChain :
    let s1 := staged .flags [0x80]
    let s2 := staged .flags [0x7F, 0x80]
    let s3 := staged .flags [0x7F, 0x00, 0xC0]
    let s4 := staged .flags [0x7F, 0x00, 0x40]
    (s1.phase = .flags ∧ available s1 1 ∧ (byteAt s1 0).getLsbD 7 = true) ∧
    (available s2 2 ∧ (byteAt s2 0).getLsbD 7 = false ∧ (byteAt s2 1).getLsbD 7 = true) ∧
    (available s3 3 ∧ (byteAt s3 0).getLsbD 7 = false ∧ (byteAt s3 1).getLsbD 7 = false ∧ (byteAt s3 2).getLsbD 7 = true) ∧
    (available s4 3 ∧ (byteAt s4 0).getLsbD 7 = false ∧ (byteAt s4 1).getLsbD 7 = false ∧ (byteAt s4 2).getLsbD 7 = false) ∧
    ((staged .flags []).frm.length ≤ 0 + 0 ∧ (staged .flags [0x7F]).frm.length ≤ 0 + 1 ∧
      (staged .flags [0x7F, 0x00]).frm.length ≤ 0 + 2 ∧
      ∀ j : Nat, j < 2 → (byteAt (staged .flags [0x7F, 0x00]) j).getLsbD 7 = false) := by decide

theorem witness_FramedFlagsAreNeverShort :
    lastByte (bytes [0xC0]) = some Config.sentinel ∧ lastByte (bytes [0x00, 0x00, 0x00, 0xC0]) = some Config.sentinel ∧
    decodeFlags (bytes [0x00, 0x00, 0x00, 0xC0]) 0 = .error (.raised .malformedHeader) := ⟨by decide, by decide, rfl⟩

theorem witness_PidReadUnconditionally :
    available (staged .pid [0x01, 0x02]) 2 ∧ ¬ available (staged .pid [0x01]) 2 ∧ (staged .pid [0x01]).phase = .pid := by decide

theorem witness_RouteReadAsFourBytes :
    available (staged .route [1, 2, 3, 4]) 4 ∧ ¬ available (staged .route [1, 2, 3]) 4 ∧
    (flagged .route 0x80#24 []).phase = .route ∧ (flagged .route 0x80#24 []).fields.flags.getLsbD 6 = false := by decide

theorem witness_AlternateRouteIsUnsupported :
    ((flagged .route 0x40#24 []).phase = .route ∧ (flagged .route 0x40#24 []).fields.flags.getLsbD 6 = true) ∧
    ((flagged .route 0xFFFFBF#24 []).phase = .route ∧ (flagged .route 0xFFFFBF#24 []).fields.flags.getLsbD 6 = false) := by decide

theorem witness_ApiIdByWidth :
    available (staged .api [7]) 1 ∧ available (staged .api [7, 1]) 2 ∧ ¬ available (staged .api []) 1 ∧
    ¬ available (staged .api [7]) 2 ∧
    ((flagged .api 0xC000#24 []).phase = .api ∧ (flagged .api 0xC000#24 []).fields.flags.getLsbD 2 = false) ∧
    ((flagged .api 0x84#24 []).fields.flags.getLsbD 2 = true ∧ (flagged .api 0x84#24 []).fields.flags.getLsbD 14 = false) ∧
    ((flagged .api 0xC004#24 []).fields.flags.getLsbD 2 = true ∧ (flagged .api 0xC004#24 []).fields.flags.getLsbD 14 = true) := by
  decide

theorem witness_TimestampByTimeFlag :
    available (staged .timestamp [1, 2, 3, 4, 5, 6]) 6 ∧ ¬ available (staged .timestamp [1, 2, 3, 4, 5]) 6 ∧
    ((flagged .timestamp 0x80#24 []).phase = .timestamp ∧ (flagged .timestamp 0x80#24 []).fields.flags.getLsbD 12 = false) ∧
    (flagged .timestamp 0x9000#24 []).fields.flags.getLsbD 12 = true := by decide

theorem witness_PayloadSizeBySelector :
    available (staged .size [1, 2, 3, 4]) 4 ∧ available (staged .size [1]) 1 ∧ available (staged .size [1, 2]) 2 ∧
    ¬ available (staged .size [1, 2, 3]) 4 ∧ ¬ available (staged .size []) 1 ∧ ¬ available (staged .size [1]) 2 ∧
    ((flagged .size 0x80#24 []).phase = .size ∧ (flagged .size 0x80#24 []).fields.flags.getLsbD 5 = false ∧
      (flagged .size 0x80#24 []).fields.flags.getLsbD 13 = false) ∧
    ((flagged .size 0xA000#24 []).fields.flags.getLsbD 5 = false ∧ (flagged .size 0xA000#24 []).fields.flags.getLsbD 13 = true) ∧
    ((flagged .size 0xA0#24 []).fields.flags.getLsbD 5 = true ∧ (flagged .size 0xA0#24 []).fields.flags.getLsbD 13 = false) ∧
    ((flagged .size 0xA020#24 []).fields.flags.getLsbD 5 = true ∧ (flagged .size 0xA020#24 []).fields.flags.getLsbD 13 = true) := by
  decide

/-- The largest value of the 2-byte size, behind one byte that is already read. -/
theorem witness_PayloadSizeRoundTrip :
    let s := { flagged .size 0x2020#24 [0x11, 0xFF, 0xFF, 0xC0] with cur := 1 }
    s.phase = .size ∧ s.cur = (bytes [0x11]).length ∧
    s.frm = bytes [0x11] ++ (leBytes (sizeWidth s.fields.flags) 65535 ++ bytes [0xC0]) ∧
    65535 < 256 ^ sizeWidth s.fields.flags := by decide

theorem witness_HeaderEndsAtPayloadOffset :
    ∃ h, decodeHeader (bytes [0xA0, 0x01, 0x00, 1, 2, 3, 4, 2, 1, 0xC0]) 0 = .ok (h, 8) := ⟨_, rfl⟩

/-- Both the entry that goes on to its LinkInfo byte and the one that is appended as the last that the list has room for. -/
theorem witness_NormalAddressForms :
    let ext := inEntry .address .extendedBeacon 9 0x18#8 [1, 2, 3, 4, 5]
    let beacon := { inEntry .address .beacon 9 0x18#8 [1, 2, 3, 4, 5] with params := ⟨none, some 1⟩ }
    (Instr.addrN32 = .addrN32 ∧ 4 = 4 ∧ available ext (4 + 1) ∧ ext.fields.ptag = .extendedBeacon) ∧
    (available beacon (4 + 1) ∧ beacon.fields.ptag ≠ .extendedBeacon ∧
      withinCap beacon.params.entryCap (beacon.fields.entries.length + 1) = true) ∧
    available (inEntry .address .beacon 9 0x00#8 [1, 2]) (1 + 1) := by decide

theorem witness_MicroAddressForms :
    let ext := inEntry .address .extendedBeacon 9 0x38#8 [0xFF]
    let beacon := { inEntry .address .beacon 9 0x38#8 [0xFF] with params := ⟨none, some 1⟩ }
    (available ext 1 ∧ ext.fields.ptag = .extendedBeacon) ∧
    (available beacon 1 ∧ beacon.fields.ptag ≠ .extendedBeacon ∧
      withinCap beacon.params.entryCap (beacon.fields.entries.length + 1) = true) := by decide

/-- Only the qualifier byte is missing, and the micro byte is missing. -/
theorem witness_AddressReadsOfMissingBytesRaise :
    ¬ available (inEntry .address .beacon 9 0x18#8 [1, 2, 3, 4]) 5 ∧ ¬ available (inEntry .address .beacon 9 0x00#8 [1]) 2 ∧
    ¬ available (inEntry .address .beacon 9 0x20#8 []) 1 := by decide

theorem witness_EntryBeyondCapacityStopsStream :
    let beacon := { inEntry .address .beacon 9 0x18#8 [1, 2, 3, 4, 5] with params := ⟨none, some 0⟩ }
    let ext := { inEntry .link .extendedBeacon 9 0x18#8 [1] with params := ⟨none, some 0⟩ }
    (withinCap beacon.params.entryCap (beacon.fields.entries.length + 1) = false ∧ available beacon 5 ∧
      beacon.fields.ptag ≠ .extendedBeacon) ∧
    (withinCap ext.params.entryCap (ext.fields.entries.length + 1) = false ∧ available ext 1) := by decide

theorem witness_AckAndRequestBeaconHaveNoEntries :
    available (declaring 5 [1]) 1 ∧ ¬ available (declaring 5 []) 1 ∧
    ((declaring 0 [1]).phase = .network ∧ (declaring 0 [1]).fields.payloadSize = 0#32) ∧
    ((declaring 5 [1]).phase = .network ∧ (declaring 5 [1]).fields.payloadSize ≠ 0#32 ∧ byteAt (declaring 5 [1]) 0 = 0x01#8) := by
  decide

theorem witness_BeaconTagsStartEntryLoop :
    available (declaring 1 [0]) 1 ∧ ¬ available (declaring 1 []) 1 ∧ ¬ 1 < (declaring 1 [0]).fields.payloadSize.toNat ∧
    1 < (declaring 2 [0]).fields.payloadSize.toNat ∧
    ((declaring 1 [0]).phase = .network ∧ (declaring 1 [0]).fields.payloadSize ≠ 0#32 ∧ byteAt (declaring 1 [0]) 0 = 0x00#8) ∧
    byteAt (declaring 1 [5]) 0 = 0x05#8 := by decide

theorem witness_OtherTagsAreUnsupported :
    let s := declaring 1 [0x02]
    available s 1 ∧ ¬ available (declaring 1 []) 1 ∧ s.phase = .network ∧ s.fields.payloadSize ≠ 0#32 ∧
    byteAt s 0 ≠ 0x00#8 ∧ byteAt s 0 ≠ 0x01#8 ∧ byteAt s 0 ≠ 0x05#8 := by decide

theorem witness_TagByteIsReadFirst :
    ((declaring 1 []).phase = .network ∧ (declaring 1 []).fields.payloadSize ≠ 0#32 ∧ ¬ available (declaring 1 []) 1) ∧
    ((declaring 1 [0]).fields.payloadSize ≠ 0#32 ∧ available (declaring 1 [0]) 1) ∧
    ((declaring 0 [0]).phase = .network ∧ (declaring 0 [0]).fields.payloadSize = 0#32) := by decide

theorem witness_EntryStartsWithFlagByteAndAge :
    (staged .entry [0x70, 0]).phase = .entry ∧ available (staged .entry [0x70, 0]) 2 ∧ ¬ available (staged .entry [0x70]) 2 := by
  decide

theorem witness_AddressFormFollowsEntryFlags :
    let f := fun e : Byte => inEntry .address .beacon 9 e [1, 2, 3, 4, 5]
    (f 0x00#8).phase = .address ∧
    ((f 0x00#8).entry.sizeMode = false ∧ (f 0x00#8).entry.addrSize = 0#2) ∧
    ((f 0x08#8).entry.sizeMode = false ∧ (f 0x08#8).entry.addrSize = 1#2) ∧
    ((f 0x10#8).entry.sizeMode = false ∧ (f 0x10#8).entry.addrSize = 2#2) ∧
    ((f 0x18#8).entry.sizeMode = false ∧ (f 0x18#8).entry.addrSize = 3#2) ∧
    ((f 0x20#8).entry.sizeMode = true ∧ (f 0x20#8).entry.addrSize = 0#2) ∧
    ((f 0x28#8).entry.sizeMode = true ∧ (f 0x28#8).entry.addrSize = 1#2) ∧
    ((f 0x30#8).entry.sizeMode = true ∧ (f 0x30#8).entry.addrSize = 2#2) ∧
    ((f 0x38#8).entry.sizeMode = true ∧ (f 0x38#8).entry.addrSize = 3#2) := by decide

theorem witness_LinkInfoCompletesEntry :
    let s := { inEntry .link .extendedBeacon 9 0x18#8 [0xBF] with params := ⟨none, some 1⟩ }
    available s 1 ∧ withinCap s.params.entryCap (s.fields.entries.length + 1) = true ∧ s.phase = .link ∧
    ¬ available (inEntry .link .extendedBeacon 9 0x18#8 []) 1 := by decide

/-- After the tag, after a `Beacon` entry in each mode, after a LinkInfo byte; the last byte declared, a loop that goes
on, and an overrun. -/
theorem witness_EntryLoopTestsConsumedBytes :
    let tag := declaring 1 [0x05]
    let micro := inEntry .address .beacon 9 0x38#8 [1]
    let normal := { inEntry .address .beacon 2 0x18#8 [1, 2, 3, 4, 5] with params := ⟨none, some 1⟩ }
    let link := inEntry .link .extendedBeacon 2 0x38#8 [1]
    (tag.phase = .network ∧ tag.fields.payloadSize ≠ 0#32 ∧ available tag 1 ∧ byteAt tag 0 = 0x05#8 ∧
      tag.fields.payloadSize.toNat ≤ 1) ∧
    (micro.phase = .address ∧ micro.fields.ptag ≠ .extendedBeacon ∧
      withinCap micro.params.entryCap (micro.fields.entries.length + 1) = true ∧ micro.entry.sizeMode = true ∧ available micro 1 ∧
      micro.consumed + (micro.cur + 1 - micro.start) < micro.fields.payloadSize.toNat) ∧
    (normal.phase = .address ∧ normal.fields.ptag ≠ .extendedBeacon ∧
      withinCap normal.params.entryCap (normal.fields.entries.length + 1) = true ∧ normal.entry.sizeMode = false ∧
      available normal (normal.entry.addrSize.toNat + 2) ∧
      normal.fields.payloadSize.toNat < normal.consumed + (normal.cur + (normal.entry.addrSize.toNat + 2) - normal.start)) ∧
    (link.phase = .link ∧ withinCap link.params.entryCap (link.fields.entries.length + 1) = true ∧ available link 1) := by decide

theorem witness_EntryWidthIsFixedByItsFlags :
    ∃ e, decodeEntry (bytes [0x70, 0x00, 0x1F, 0xBF]) 0 true = .ok (e, 4) := ⟨_, rfl⟩

/-- The fewest iterations, and one more. -/
theorem witness_EntryLoopEndsWithinFrame :
    (3 ≤ (bytes [1, 2, 3]).length ∧ ((bytes [1, 2, 3]).length - 3) / 3 + 1 ≤ 1) ∧
    ((bytes [1, 2, 3]).length - 0) / 3 + 1 ≤ 3 := by decide

theorem witness_DispatchOnApiId :
    let s := { staged .dispatch [] with fields := { Packet.blank with apiId := 0xFFFF } }
    ((staged .dispatch []).phase = .dispatch ∧ (staged .dispatch []).fields.apiId = 0#16) ∧
    (s.phase = .dispatch ∧ s.fields.apiId ≠ 0#16) := by decide

theorem witness_PacketDecodeStartsFresh : (staged .packet [0x80, 0xC0]).phase = .packet := by decide

theorem witness_TrailerFieldsByFlags : available (staged .crc [1, 2]) 2 ∧ ¬ available (staged .crc [1]) 2 ∧
    (staged .crc []).phase = .crc ∧ (staged .signature []).phase = .signature := by decide

theorem witness_BytesAfterLastFieldAreIgnored :
    ∃ packet, decodePacketAt Params.unbounded (bytes [0x80, 0, 0, 1, 2, 3, 4, 0xC0]) = .ok (packet, 7) := ⟨_, rfl⟩

/-- Each check in its order: V90; V37; V23; V31; V80; the missing tag byte; V65. -/
theorem witness_FirstErrorInFixedOrder :
    decodeFlags (bytes [0, 0, 0, 0xC0]) 0 = .error (.raised .malformedHeader) ∧
    (∃ f, decodeFlags (bytes [0x80, 0xC0]) 0 = .ok (f, 1#2, 1) ∧ (bytes [0x80, 0xC0]).length < 1 + 2) ∧
    (∃ f, decodeFlags (bytes [0xC0, 0, 0]) 0 = .ok (f, 1#2, 1) ∧ 1 + 2 ≤ (bytes [0xC0, 0, 0]).length ∧ flag f .routeset = true) ∧
    (∃ f, decodeFlags (bytes [0, 0x90, 0, 0, 0, 0, 0, 0, 1, 2, 3, 0xC0]) 0 = .ok (f, 2#2, 2) ∧ flag f .routeset = false ∧
      (bytes [0, 0x90, 0, 0, 0, 0, 0, 0, 1, 2, 3, 0xC0]).length < 2 + 6 + apiWidth f + timestampWidth f + sizeWidth f) ∧
    (∃ h, decodeHeader (bytes [0x84, 1, 0, 0, 0, 0, 0, 7, 0xC0]) 0 = .ok (h, 8) ∧ h.apiId ≠ 0#16) ∧
    (∃ h, decodeHeader (bytes [0xA0, 1, 0, 1, 2, 3, 4, 2]) 0 = .ok (h, 8) ∧ h.apiId = 0#16 ∧ h.payloadSize ≠ 0#32 ∧
      (bytes [0xA0, 1, 0, 1, 2, 3, 4, 2]).length ≤ 8) ∧
    (∃ h, decodeHeader (bytes [0xA0, 1, 0, 1, 2, 3, 4, 2, 9]) 0 = .ok (h, 8) ∧ h.apiId = 0#16 ∧ h.payloadSize ≠ 0#32 ∧
      8 < (bytes [0xA0, 1, 0, 1, 2, 3, 4, 2, 9]).length ∧ (bytes [0xA0, 1, 0, 1, 2, 3, 4, 2, 9]).getD 8 0 ≠ 0x00#8 ∧
      (bytes [0xA0, 1, 0, 1, 2, 3, 4, 2, 9]).getD 8 0 ≠ 0x01#8 ∧ (bytes [0xA0, 1, 0, 1, 2, 3, 4, 2, 9]).getD 8 0 ≠ 0x05#8) :=
  ⟨rfl, ⟨_, rfl, by decide⟩, ⟨_, rfl, by decide⟩, ⟨_, rfl, by decide⟩, ⟨_, rfl, by decide⟩, ⟨_, rfl, by decide⟩, ⟨_, rfl, by decide⟩⟩

theorem witness_FrameBoundaryOperations :
    (buffered [0x80]).streams[(buffered [0x80]).active]? = some { Stream.fresh with buf := bytes [0x80] } := by decide

theorem witness_BoundaryIsTheLastByte :
    (buffered [0x80, 0xC0]).phase = .boundary ∧
    (buffered [0x80, 0xC0]).streams[0]? = some { Stream.fresh with buf := bytes [0x80] ++ [0xC0#8] } ∧
    ((buffered [0xC0, 0x80]).streams[0]? = some { Stream.fresh with buf := bytes [0xC0] ++ [0x80#8] } ∧ 0x80#8 ≠ 0xC0#8) ∧
    (buffered []).streams[0]? = some { Stream.fresh with buf := [] } := by decide

/-- With an empty buffer, and with a full one. -/
theorem witness_EmptyChunkNeedsMoreData :
    let s := asked ⟨some 1, none⟩ [0x80] [.feed 0 []]
    let e := asked Params.unbounded [] [.feed 0 []]
    (BuffersSynchronised s ∧ WithinCapacities s ∧ s.phase = .idle ∧ s.inputs = .feed 0 [] :: [] ∧
      s.streams[0]? = some { Stream.fresh with buf := bytes [0x80] }) ∧
    (BuffersSynchronised e ∧ WithinCapacities e ∧ e.phase = .idle ∧ e.inputs = .feed 0 [] :: [] ∧
      e.streams[0]? = some Stream.fresh) ∧ Stream.fresh.stopped = none := by decide

/-- The step that answers an error, and the one that answers a Packet. -/
theorem witness_ResponseOfFrameLeavesBufferEmpty :
    (∃ t d r, SnapshotSound (staged .pid [0xC0]) ∧ decoding (staged .pid [0xC0]).phase = true ∧
      step (staged .pid [0xC0]) = .next t ∧ t.phase = .idle ∧ t.streams[t.active]? = some d ∧ d.response = some r ∧ d.stopped = none) ∧
    (∃ t d r, SnapshotSound (staged .crc [0xC0]) ∧ decoding (staged .crc [0xC0]).phase = true ∧
      step (staged .crc [0xC0]) = .next t ∧ t.phase = .idle ∧ t.streams[t.active]? = some d ∧ d.response = some r ∧ d.stopped = none) :=
  ⟨⟨_, _, _, by decide, by decide, rfl, rfl, rfl, rfl, rfl⟩, ⟨_, _, _, by decide, by decide, rfl, rfl, rfl, rfl, rfl⟩⟩

theorem witness_OnlyFeedFrameWritesABuffer :
    (∃ t, exec .hdrApiNone (flagged .api 0#24 []) = .next t) ∧ Instr.hdrApiNone ≠ .feedFrame ∧
    1 ≠ (flagged .api 0#24 []).active := ⟨⟨_, rfl⟩, by decide⟩

theorem witness_FrameImmutableAndCursorMonotone :
    ∃ t, exec .hdrPid (staged .pid [1, 2]) = .next t ∧ t.phase ≠ .idle ∧ Instr.hdrPid ≠ .feedFrame ∧ Instr.hdrPid ≠ .pktDecode ∧
      (staged .pid [1, 2]).cur ≤ (staged .pid [1, 2]).frm.length := ⟨_, rfl, by decide⟩

theorem witness_ParametersAndRefusalsAreFixed :
    let d := { Stream.fresh with stopped := some .entryCapExceeded }
    let s := { State.reset with streams := [d], inputs := [.reset 0] }
    (∃ t, step s = .next t) ∧ s.streams[0]? = some d ∧ d.stopped ≠ none := ⟨⟨_, rfl⟩, by decide⟩

/-- The step that empties the buffer, from a state in which the boundary test is due. -/
theorem witness_StepKeepsBuffersSynchronised :
    BuffersSynchronised (buffered [0x80, 0xC0]) ∧ ∃ t, step (buffered [0x80, 0xC0]) = .next t := ⟨by decide, _, rfl⟩

theorem witness_StepKeepsWithinCapacities :
    let s := { inEntry .address .beacon 9 0x20#8 [1] with params := ⟨some 0, some 1⟩ }
    WithinCapacities s ∧ ∃ t, step s = .next t ∧ t.phase = .entry := ⟨by decide, _, rfl, rfl⟩

theorem witness_StepKeepsSnapshotSound :
    (SnapshotSound (staged .pid [1, 2, 0xC0]) ∧ ∃ t, step (staged .pid [1, 2, 0xC0]) = .next t ∧ t.phase = .route) ∧
    (SnapshotSound (buffered [0xC0]) ∧ ∃ t, step (buffered [0xC0]) = .next t ∧ t.phase = .packet) :=
  ⟨⟨by decide, _, rfl, rfl⟩, by decide, _, rfl, rfl⟩

/-- In the middle of a payload, and at the step that answers a Packet. -/
theorem witness_StepKeepsRegistersShaped :
    let header := { Packet.blank with flags := 0xA0, flen := 1, payloadSize := 9 }
    let link := { inEntry .link .extendedBeacon 9 0x20#8 [1] with fields := { header with ptag := .extendedBeacon } }
    let last := { staged .crc [0xC0] with fields := header }
    (RegistersShaped link ∧ ∃ t, step link = .next t ∧ t.phase = .entry) ∧
    (RegistersShaped last ∧ ∃ t, step last = .next t ∧ t.phase = .idle) := ⟨⟨by decide, _, rfl, rfl⟩, by decide, _, rfl, rfl⟩

theorem witness_OtherStreamsAreUntouched :
    let s := { State.built Params.unbounded 2 with inputs := [.feed 0 (bytes [0xC0])] }
    (∃ t, step s = .next t) ∧ s.phase = .idle ∧ (∀ i ∈ s.inputs.head?, inputStream i ≠ 1) ∧
    ((buffered [0xC0]).phase ≠ .idle ∧ 1 ≠ (buffered [0xC0]).active) := ⟨⟨_, rfl⟩, by decide⟩

theorem witness_DecodeLearnsNothingOfOtherStreams :
    (buffered [0xC0]).phase ≠ .idle ∧
    [{ Stream.fresh with buf := bytes [0xC0] }, Stream.fresh][(buffered [0xC0]).active]? =
      (buffered [0xC0]).streams[(buffered [0xC0]).active]? ∧ ∃ t, step (buffered [0xC0]) = .next t := ⟨by decide, by decide, _, rfl⟩

theorem witness_FeedRunIsTheTransaction :
    let s := asked ⟨some 9, some 1⟩ [0x80] [.feed 0 (bytes [0xC0])]
    s.phase = .idle ∧ AtRest s ∧ s.inputs = .feed 0 (bytes [0xC0]) :: [] ∧
    s.streams[0]? = some { Stream.fresh with buf := bytes [0x80] } ∧ Stream.fresh.stopped = none := by decide

/-- The Packet of V1. -/
def fixture : Packet :=
  { Packet.blank with
    flags := 0x9A21, flen := 2, pid := 1959, route0 := ⟨1, 15⟩, timestamp := 1710249970927, payloadSize := 5, ptag := .extendedBeacon,
    entries := [{ Entry.blank with
      active := true, sizeMode := true, addrSize := 2, address := 1, qualifier := 15, link := some ⟨7, 7, false, true⟩ }],
    crcValue := 62436 }

/-- The encoder gives the 23 bytes of V1, and the list is just long enough. -/
theorem witness_DecodeOfEncodedFrameIsThePacket :
    packetOnWire fixture = true ∧ withinCap (some 1) fixture.entries.length = true ∧
    encodeFrame fixture = bytes [0x21, 0x9A, 0xA7, 0x07, 0x01, 0x0F, 0x00, 0x00, 0xEF, 0x8C, 0xD7, 0x32, 0x8E, 0x01, 0x05, 0x05, 0x70,
      0x00, 0x1F, 0xBF, 0xE4, 0xF3, 0xC0] := by decide

theorem witness_FedFrameProducesItsPacket :
    let s := asked ⟨some 23, some 1⟩ [] [.feed 0 (encodeFrame fixture)]
    packetOnWire fixture = true ∧ withinCap s.params.entryCap fixture.entries.length = true ∧
    withinCap s.params.bufCap (encodeFrame fixture).length = true ∧ s.phase = .idle ∧ AtRest s ∧
    s.inputs = .feed 0 (encodeFrame fixture) :: [] ∧ s.streams[0]? = some Stream.fresh ∧ Stream.fresh.buf = [] ∧
    Stream.fresh.stopped = none := by decide

end Sys2Proof.Tests
end

section
/-! SUPPORT. The steps of a decode against the transaction of Sys2Proof/Machine/Transaction.lean. `residual` is what the transaction
makes of the frame from a stage on; every step ends the FEED with it or keeps it (`step_simulates`), with less work left, so that a run
gives what the transaction gives in a bounded number of steps (`run_settles`). -/

namespace Sys2Proof.Machine

/-! ### Runs of steps -/

@[simp] theorem run_zero (s : State) : core.run 0 s = .next s := rfl

theorem run_succ_of_step {s t : State} (n : Nat) (h : step s = .next t) : core.run (n + 1) s = core.run n t := by
  have h' : core.step s = .next t := h
  simp only [Host.Core.run, h']

/-! ### What is left of a decode -/

/-- The CRC and the end of R200: the Packet whose registers before the CRC are `h`. -/
def crcTail (frm : Memory) (h : Packet) (cur : Nat) : Decode Packet := do
  let (v, _) ← rd frm (trailerWidth (flag h.flags .crc)) cur
  .ok { h with crcValue := BitVec.ofNat 16 v }

/-- R200 from the signature on. -/
def signatureTail (frm : Memory) (h : Packet) (cur : Nat) : Decode Packet := do
  let (v, cur) ← rd frm (trailerWidth (flag h.flags .sgn)) cur
  crcTail frm { h with signature := BitVec.ofNat 16 v } cur

/-- R200 after the payload, whose tag, entries and end are `r`. -/
def payloadTail (frm : Memory) (h : Packet) (r : PayloadTag × List Entry × Nat) : Decode Packet :=
  signatureTail frm { h with ptag := r.1, entries := r.2.1 } r.2.2

/-- R200 from the loop test of R176 on, with the registers `h` and `consumed` bytes counted. -/
def loopTail (p : Params) (frm : Memory) (h : Packet) (fuel consumed cur : Nat) : Decode Packet := do
  let (entries, cur) ← networkEntries p frm h.payloadSize.toNat (h.ptag == .extendedBeacon) fuel h.entries consumed cur
  signatureTail frm { h with entries := entries } cur

/-- R200 from the end of the entry `e` on, which started at `start`. -/
def entryTail (p : Params) (frm : Memory) (h : Packet) (fuel consumed start : Nat) (e : Entry) (cur : Nat) : Decode Packet :=
  if entriesFull p h.entries then .error (.refused .entryCapExceeded)
  else loopTail p frm { h with entries := h.entries ++ [e] } fuel (consumed + (cur - start)) cur

/-- R200 from the LinkInfo byte of the entry `e` on. -/
def linkTail (p : Params) (frm : Memory) (h : Packet) (fuel consumed start : Nat) (e : Entry) (cur : Nat) : Decode Packet := do
  let (l, cur) ← rd frm 1 cur
  entryTail p frm h fuel consumed start { e with link := some (decodeLinkInfo (BitVec.ofNat 8 l)) } cur

/-- R200 from the address of the entry `e` on. -/
def addressTail (p : Params) (frm : Memory) (h : Packet) (fuel consumed start : Nat) (e : Entry) (cur : Nat) :
    Decode Packet := do
  let (address, qualifier, cur) ← decodeAddress frm cur e.sizeMode e.addrSize
  let e := { e with address := address, qualifier := qualifier }
  if h.ptag = .extendedBeacon then linkTail p frm h fuel consumed start e cur
  else entryTail p frm h fuel consumed start e cur

/-- R200 from an entry on that the loop test lets begin. -/
def beginTail (p : Params) (frm : Memory) (h : Packet) (fuel consumed cur : Nat) : Decode Packet := do
  let (e, cur1) ← rd frm 1 cur
  let (age, cur1) ← rd frm 1 cur1
  addressTail p frm h fuel consumed cur { entryOfFlagByte (BitVec.ofNat 8 e) with age := BitVec.ofNat 8 age } cur1

/-- R200 from the payload size on. -/
def sizeTail (p : Params) (frm : Memory) (h : Packet) (cur : Nat) : Decode Packet := do
  let (v, cur) ← rd frm (sizeWidth h.flags) cur
  let h := { h with payloadSize := BitVec.ofNat 32 v }
  dispatchPayload p h frm cur >>= payloadTail frm h

/-- R200 from the timestamp on. -/
def timestampTail (p : Params) (frm : Memory) (h : Packet) (cur : Nat) : Decode Packet := do
  let (v, cur) ← rd frm (timestampWidth h.flags) cur
  sizeTail p frm { h with timestamp := BitVec.ofNat 64 v } cur

/-- R200 from the API id on. -/
def apiTail (p : Params) (frm : Memory) (h : Packet) (cur : Nat) : Decode Packet := do
  let (v, cur) ← rd frm (apiWidth h.flags) cur
  timestampTail p frm { h with apiId := BitVec.ofNat 16 v } cur

/-- R200 from the route on. -/
def routeTail (p : Params) (frm : Memory) (h : Packet) (cur : Nat) : Decode Packet :=
  if flag h.flags .routeset then .error (.raised .unsupportedRouteFormat) else do
  let (a, cur) ← rd frm 1 cur
  let (b, cur) ← rd frm 1 cur
  let (c, cur) ← rd frm 1 cur
  let (d, cur) ← rd frm 1 cur
  apiTail p frm { h with
    route0 := ⟨BitVec.ofNat 16 a, BitVec.ofNat 16 b⟩, route1 := ⟨BitVec.ofNat 16 c, BitVec.ofNat 16 d⟩ } cur

/-- R200 from the PID on. -/
def pidTail (p : Params) (frm : Memory) (h : Packet) (cur : Nat) : Decode Packet := do
  let (v, cur) ← rd frm 2 cur
  routeTail p frm { h with pid := BitVec.ofNat 16 v } cur

/-- R200 from the flags on. -/
def flagsTail (p : Params) (frm : Memory) (h : Packet) (cur : Nat) : Decode Packet := do
  let (f, flen, cur) ← decodeFlags frm cur
  pidTail p frm { h with flags := f, flen := flen } cur

theorem map_eq_bind {α β : Type} (f : α → β) (x : Decode α) : x.map f = x >>= fun a => .ok (f a) := by
  cases x <;> rfl

/-- The transaction decodes a frame stage by stage. -/
theorem decodePacket_eq_flagsTail (p : Params) (frm : Memory) : decodePacket p frm = flagsTail p frm Packet.blank 0 := by
  unfold decodePacket decodePacketAt decodeHeader flagsTail pidTail routeTail
  simp only [map_eq_bind, bind_assoc]
  refine bind_congr fun flags => bind_congr fun pid => ?_
  split
  · rfl
  · simp only [apiTail, timestampTail, sizeTail, bind_assoc]
    rfl

/-- What the transaction makes of the frame from the stage in progress on, with the registers written so far. The loop of R170 takes
`fuel`. -/
def residual (fuel : Nat) (s : State) : Decode Packet :=
  match s.phase with
  | .idle | .boundary | .packet => decodePacket s.params s.frm
  | .flags => flagsTail s.params s.frm s.fields s.cur
  | .pid => pidTail s.params s.frm s.fields s.cur
  | .route => routeTail s.params s.frm s.fields s.cur
  | .api => apiTail s.params s.frm s.fields s.cur
  | .timestamp => timestampTail s.params s.frm s.fields s.cur
  | .size => sizeTail s.params s.frm s.fields s.cur
  | .dispatch => dispatchPayload s.params s.fields s.frm s.cur >>= payloadTail s.frm s.fields
  | .network => decodeNetwork s.params s.frm s.cur s.fields.payloadSize.toNat >>= payloadTail s.frm s.fields
  | .entry => beginTail s.params s.frm s.fields fuel s.consumed s.cur
  | .address => addressTail s.params s.frm s.fields fuel s.consumed s.start s.entry s.cur
  | .link => linkTail s.params s.frm s.fields fuel s.consumed s.start s.entry s.cur
  | .signature => signatureTail s.frm s.fields s.cur
  | .crc => crcTail s.frm s.fields s.cur

/-! ### One step against the transaction -/

/-- The FEED in progress returns with the result of its decode. -/
def settle (d : Decode Packet) (s : State) : State :=
  match d with
  | .ok packet => respond (.produced packet) s
  | .error (.raised k) => respond (.decodeError k) s
  | .error (.refused why) => stopActive why s

/-- How many stages of a decode can follow without another byte read, this one counted; 0 outside a decode and before it starts. -/
def stagesLeft : Phase → Nat
  | .idle | .boundary | .packet => 0
  | .flags => 11
  | .pid => 10
  | .route => 9
  | .api => 8
  | .timestamp => 7
  | .size => 6
  | .dispatch => 5
  | .network => 4
  | .entry | .address | .link => 3
  | .signature => 2
  | .crc => 1

/-- Every step of a decode has less of this left. -/
def workLeft (s : State) : Nat := stagesLeft s.phase + (s.frm.length - s.cur)

/-- The decode has started, its cursor is inside the frame, and `fuel` is enough for the entries that the bytes left can hold. -/
structure Underway (fuel : Nat) (s : State) : Prop where
  started : 0 < stagesLeft s.phase
  inside : s.cur ≤ s.frm.length
  enough : s.frm.length ≤ fuel + s.cur

/-- Between the two states only the cursor, the decode registers and the stage differ. -/
abbrev WithinDecode (s t : State) : Prop :=
  t = { s with
    cur := t.cur, fields := t.fields, entry := t.entry, consumed := t.consumed, start := t.start, phase := t.phase }

/-- From `s`, where the transaction makes `d` of the rest of the frame, a step ends the FEED with `d`, or leaves the rest of `d` to a
state that is closer to the end. -/
inductive Simulates (s : State) (d : Decode Packet) : Result → Prop where
  | settles : Simulates s d (.next (settle d s))
  | goesOn (fuel : Nat) (t : State) (hon : Underway fuel t) (hwork : workLeft t < workLeft s) (hres : residual fuel t = d)
      (hframe : WithinDecode s t) :
      Simulates s d (.next t)

/-- The step raises the error that the transaction ends with. -/
theorem Simulates.raises {s s1 : State} {d : Decode Packet} {k : ErrorKind} (hs : respond (.decodeError k) s1 = respond (.decodeError k) s)
    (hd : d = .error (.raised k)) : Simulates s d (raiseError k s1) := by
  subst hd
  unfold raiseError
  rw [hs]
  exact .settles

/-- A read of the block and a read of the transaction, at the same place: they fail alike, and with bytes enough they go on with the
same value. -/
theorem Simulates.read {s s1 : State} {n cur : Nat} {go : Nat → State → Result} {f : Nat × Nat → Decode Packet}
    (hat : s1.frm = s.frm ∧ s1.cur = cur) (hs : ∀ r, respond r s1 = respond r s)
    (hgo : ∀ v, cur + n ≤ s.frm.length → Simulates s (f (v, cur + n)) (go v (moveCursor n s1))) :
    Simulates s (rd s.frm n cur >>= f) (reading n s1 go) := by
  obtain ⟨hfrm, rfl⟩ := hat
  rw [← hfrm] at hgo ⊢
  unfold reading rd
  cases h : memRead s1.frm s1.cur n with
  | some v => exact hgo v (memRead_eq_some.mp h).1
  | none => exact .raises (hs _) rfl

/-- A read of no bytes is no read. -/
theorem reading_zero {s : State} {go : Nat → State → Result} (h : s.cur ≤ s.frm.length) : reading 0 s go = go 0 s := by
  rw [reading_of_le (by simpa using h)]
  rfl

/-- The step goes on to a later stage, outside the entry loop. -/
theorem Simulates.nextStage {s t : State} {d : Decode Packet} (hstage : 0 < stagesLeft t.phase ∧ stagesLeft t.phase < stagesLeft s.phase)
    (hcur : s.cur ≤ t.cur ∧ t.cur ≤ s.frm.length) (hres : residual s.frm.length t = d)
    (hframe : WithinDecode s t) :
    Simulates s d (.next t) := by
  have hfrm : t.frm = s.frm := by rw [hframe]
  refine .goesOn s.frm.length t ⟨hstage.1, ?_, ?_⟩ ?_ hres hframe
  · rw [hfrm]; exact hcur.2
  · rw [hfrm]; omega
  · unfold workLeft
    rw [hfrm]
    omega

/-! ### The header and the trailer -/

section Stages

variable {s : State} {fuel : Nat}

theorem step_pid (hp : s.phase = .pid) : step s = execHdrPid s := by
  simp [step, fetch, selector, hp, decode, exec]

theorem step_route (hp : s.phase = .route) :
    step s = if flag s.fields.flags .routeset then raiseError .unsupportedRouteFormat s else execHdrRoute s := by
  simp only [step, fetch, selector, hp, decode]
  split <;> rfl

theorem step_api (hp : s.phase = .api) (hcur : s.cur ≤ s.frm.length) :
    step s = reading (apiWidth s.fields.flags) s setApiId := by
  simp only [step, fetch, selector, hp, decode, decodeApi, apiWidth]
  split
  · split <;> rfl
  · exact (reading_zero (go := setApiId) hcur).symm

theorem step_timestamp (hp : s.phase = .timestamp) (hcur : s.cur ≤ s.frm.length) :
    step s = reading (timestampWidth s.fields.flags) s setTimestamp := by
  simp only [step, fetch, selector, hp, decode, timestampWidth]
  split
  · rfl
  · exact (reading_zero (go := setTimestamp) hcur).symm

theorem step_size (hp : s.phase = .size) (hcur : s.cur ≤ s.frm.length) :
    step s = reading (sizeWidth s.fields.flags) s setPayloadSize := by
  simp only [step, fetch, selector, hp, decode, decodeSize, sizeWidth]
  cases flag s.fields.flags .sizelen0 <;> cases flag s.fields.flags .sizelen1
  · exact (reading_zero (go := setPayloadSize) hcur).symm
  all_goals rfl

theorem step_dispatch (hp : s.phase = .dispatch) :
    step s = if s.fields.apiId = 0#16 then .next { s with phase := .network } else raiseError .unsupportedApi s := by
  simp only [step, fetch, selector, hp, decode]
  split <;> rfl

theorem step_signature (hp : s.phase = .signature) (hcur : s.cur ≤ s.frm.length) :
    step s = reading (trailerWidth (flag s.fields.flags .sgn)) s setSignature := by
  simp only [step, fetch, selector, hp, decode]
  cases flag s.fields.flags .sgn
  · exact (reading_zero (go := setSignature) hcur).symm
  · rfl

theorem step_crc (hp : s.phase = .crc) (hcur : s.cur ≤ s.frm.length) :
    step s = reading (trailerWidth (flag s.fields.flags .crc)) s producePacket := by
  simp only [step, fetch, selector, hp, decode]
  cases flag s.fields.flags .crc
  · exact (reading_zero (go := producePacket) hcur).symm
  · rfl

/-- A read whose value goes into a field register, in the block and in the transaction. -/
theorem Simulates.field {n : Nat} {next : Phase} {g : Nat → Packet → Packet} {f : Nat × Nat → Decode Packet}
    (hstage : 0 < stagesLeft next ∧ stagesLeft next < stagesLeft s.phase)
    (hres : ∀ v, residual s.frm.length (proceed next (g v) (moveCursor n s)) = f (v, s.cur + n)) :
    Simulates s (rd s.frm n s.cur >>= f) (reading n s fun v s1 => .next (proceed next (g v) s1)) :=
  .read ⟨rfl, rfl⟩ (fun _ => rfl) fun v hle => .nextStage hstage ⟨Nat.le_add_right _ _, hle⟩ (hres v) rfl

theorem simulates_pid (hp : s.phase = .pid) : Simulates s (residual fuel s) (step s) := by
  simp only [step_pid hp, residual, hp]
  exact .field (by simp [hp, stagesLeft]) fun _ => rfl

theorem simulates_route (hp : s.phase = .route) : Simulates s (residual fuel s) (step s) := by
  simp only [step_route hp, residual, hp, routeTail]
  split
  · exact .raises rfl rfl
  · refine .read ⟨rfl, rfl⟩ (fun _ => rfl) fun a _ => .read ⟨rfl, rfl⟩ (fun _ => rfl) fun b _ => .read ⟨rfl, rfl⟩ (fun _ => rfl) fun c _ =>
      .read ⟨rfl, rfl⟩ (fun _ => rfl) fun d hle => ?_
    exact .nextStage (by simp [hp, stagesLeft]) ⟨by simp, hle⟩ rfl rfl

theorem simulates_api (hp : s.phase = .api) (hcur : s.cur ≤ s.frm.length) : Simulates s (residual fuel s) (step s) := by
  simp only [step_api hp hcur, residual, hp]
  exact .field (by simp [hp, stagesLeft]) fun _ => rfl

theorem simulates_timestamp (hp : s.phase = .timestamp) (hcur : s.cur ≤ s.frm.length) :
    Simulates s (residual fuel s) (step s) := by
  simp only [step_timestamp hp hcur, residual, hp]
  exact .field (by simp [hp, stagesLeft]) fun _ => rfl

theorem simulates_size (hp : s.phase = .size) (hcur : s.cur ≤ s.frm.length) : Simulates s (residual fuel s) (step s) := by
  simp only [step_size hp hcur, residual, hp]
  exact .field (by simp [hp, stagesLeft]) fun _ => rfl

theorem simulates_dispatch (hp : s.phase = .dispatch) (hcur : s.cur ≤ s.frm.length) :
    Simulates s (residual fuel s) (step s) := by
  simp only [step_dispatch hp, residual, hp, dispatchPayload]
  split
  · exact .nextStage (by simp [hp, stagesLeft]) ⟨Nat.le_refl _, hcur⟩ rfl rfl
  · exact .raises rfl rfl

theorem simulates_signature (hp : s.phase = .signature) (hcur : s.cur ≤ s.frm.length) :
    Simulates s (residual fuel s) (step s) := by
  simp only [step_signature hp hcur, residual, hp]
  exact .field (by simp [hp, stagesLeft]) fun _ => rfl

theorem simulates_crc (hp : s.phase = .crc) (hcur : s.cur ≤ s.frm.length) : Simulates s (residual fuel s) (step s) := by
  simp only [step_crc hp hcur, residual, hp]
  exact .read ⟨rfl, rfl⟩ (fun _ => rfl) fun v _ => .settles


/-! ### The flags -/

theorem step_flags (hp : s.phase = .flags) :
    step s = exec (decodeFlagBytes ((s.frm.drop s.cur).take Config.flagsMaxBytes)) s := by
  simp [step, fetch, selector, hp, decode]

/-- The chain of terminator bits ended within the frame: `F` and `FLEN` are written. -/
theorem Simulates.flags {n : Nat} {f : FlagsWord} (hp : s.phase = .flags) (hle : s.cur + n ≤ s.frm.length) :
    Simulates s (pidTail s.params s.frm { s.fields with flags := f, flen := BitVec.ofNat 2 n } (s.cur + n)) (takeFlags n f s) := by
  unfold takeFlags
  rw [if_pos hle]
  exact .nextStage (by simp [hp, stagesLeft]) ⟨Nat.le_add_right _ _, hle⟩ rfl rfl

theorem getElem?_of_drop_eq {frm : Memory} {cur : Nat} {l : List Byte} (h : frm.drop cur = l) (i : Nat) :
    frm[cur + i]? = l[i]? := by
  rw [← h, List.getElem?_drop]

theorem simulates_flags (hp : s.phase = .flags) : Simulates s (residual fuel s) (step s) := by
  obtain ⟨left, hleft⟩ : ∃ left, s.frm.drop s.cur = left := ⟨_, rfl⟩
  have hlen : left.length = s.frm.length - s.cur := by rw [← hleft, List.length_drop]
  have h0 : s.frm[s.cur]? = left[0]? := getElem?_of_drop_eq hleft 0
  have h1 : s.frm[s.cur + 1]? = left[1]? := getElem?_of_drop_eq hleft 1
  have h2 : s.frm[s.cur + 1 + 1]? = left[2]? := getElem?_of_drop_eq hleft 2
  simp only [step_flags hp, hleft, residual, hp, flagsTail, decodeFlags, Config.flagsMaxBytes, flagsLoop, h0, h1, h2]
  rcases left with _ | ⟨b1, _ | ⟨b2, _ | ⟨b3, more⟩⟩⟩ <;>
    simp only [List.length_cons, List.length_nil] at hlen <;>
    simp only [decodeFlagBytes, List.take_succ_cons, List.take_nil, List.take_zero, List.getElem?_cons_zero,
      List.getElem?_cons_succ, List.getElem?_nil, List.nil_append, List.cons_append]
  · exact .raises rfl rfl
  · split
    · exact .flags (n := 1) hp (by omega)
    · exact .raises rfl rfl
  · split
    · exact .flags (n := 1) hp (by omega)
    · split
      · exact .flags (n := 2) hp (by omega)
      · exact .raises rfl rfl
  · split
    · exact .flags (n := 1) hp (by omega)
    · split
      · exact .flags (n := 2) hp (by omega)
      · split
        · exact .flags (n := 3) hp (by omega)
        · exact .raises rfl rfl

/-! ### The payload -/

theorem reading_of_byte {b : Byte} {go : Nat → State → Result} (h : byteAtCursor s = some b) :
    reading 1 s go = go b.toNat (moveCursor 1 s) := by
  obtain ⟨hlt, hb⟩ := List.getElem?_eq_some_iff.mp h
  rw [reading_of_le hlt, leNat_take_one hlt, List.getD_eq_getElem _ _ hlt, hb]

theorem reading_of_no_byte {go : Nat → State → Result} (h : byteAtCursor s = none) :
    reading 1 s go = raiseError .insufficientData s :=
  reading_of_lt (Nat.lt_succ_of_le (List.getElem?_eq_none_iff.mp h))

theorem readTag_of_byte {b : Byte} {tag : PayloadTag} {go : State → Result} (h : byteAtCursor s = some b) :
    readTag tag s go = go (beginPayload tag (moveCursor 1 s)) :=
  reading_of_byte h

/-- What NET.REQBEACON, NET.BEACON, NET.EXTBEACON and NET.BADTAG do after their tag byte (R173 to R177). -/
def afterTag (tag : Nat) (s : State) : Result :=
  if tag = 0x01 then .next { beginPayload .requestBeacon s with phase := .signature }
  else if tag = 0x00 then .next (entryLoop (beginPayload .beacon s))
  else if tag = 0x05 then .next (entryLoop (beginPayload .extendedBeacon s))
  else raiseError .unsupportedNetworkPacketType s

theorem exec_decodeTag (b : Byte) (h : byteAtCursor s = some b) :
    exec (decodeTag b) s = afterTag b.toNat (moveCursor 1 s) := by
  by_cases h0 : b = 0x00#8
  · subst h0
    exact (readTag_of_byte h : execNetBeacon s = _)
  by_cases h1 : b = 0x01#8
  · subst h1
    exact (readTag_of_byte h : execNetReqBeacon s = _)
  by_cases h5 : b = 0x05#8
  · subst h5
    exact (readTag_of_byte h : execNetExtBeacon s = _)
  have hne (n : Nat) (hn : n < 256) (hb : b ≠ BitVec.ofNat 8 n) : b.toNat ≠ n := by
    rintro rfl
    exact hb (by simp)
  simp only [decodeTag, afterTag, h0, h1, h5, hne 0 (by decide) h0, hne 1 (by decide) h1, hne 5 (by decide) h5, if_false]
  exact (reading_of_byte h : execNetBadTag s = _)

theorem step_network (hp : s.phase = .network) :
    step s = if s.fields.payloadSize = 0#32 then execNetAck s else reading 1 s afterTag := by
  simp only [step, fetch, selector, hp, decode]
  by_cases hzero : s.fields.payloadSize = 0#32
  · simp only [hzero, if_true]
    rfl
  · simp only [hzero, if_false]
    cases h : byteAtCursor s with
    | none => exact (reading_of_no_byte h).symm
    | some b =>
      rw [reading_of_byte h]
      exact exec_decodeTag b h

theorem step_entry (hp : s.phase = .entry) :
    step s = reading 1 s fun e s1 => reading 1 s1 fun age s2 => .next (beginEntry s.cur
      { entryOfFlagByte (BitVec.ofNat 8 e) with age := BitVec.ofNat 8 age } s2) := by
  simp only [step, fetch, selector, hp, decode]
  cases h : byteAtCursor s with
  | none => exact (reading_of_no_byte h).symm
  | some b =>
    rw [reading_of_byte h, BitVec.ofNat_toNat, BitVec.setWidth_eq]
    exact (reading_of_byte h : execNetEntry _ _ _ _ _ s = _)

theorem step_link (hp : s.phase = .link) :
    step s = reading 1 s fun l s1 => finishEntry (withEntry
      { s1.entry with link := some (decodeLinkInfo (BitVec.ofNat 8 l)) } s1) := by
  simp only [step, fetch, selector, hp, decode]
  cases h : byteAtCursor s with
  | none => exact (reading_of_no_byte h).symm
  | some b =>
    rw [reading_of_byte h, BitVec.ofNat_toNat, BitVec.setWidth_eq]
    exact (reading_of_byte h : execNetLinkInfo _ _ _ _ s = _)

/-- The flag byte of an entry decodes to its bits (R80). -/
theorem decodeEntryByte_entryFlagByte (e : Entry) :
    decodeEntryByte (entryFlagByte e) = .netEntry e.dtn e.active e.sizeMode e.addrSize e.hops :=
  Decoded.op.inj (Laws.RoundTrip.netEntry _ _ _ _ _ rfl)

theorem step_address (hp : s.phase = .address) :
    step s = if s.entry.sizeMode then splitAddress ([0, 2, 4, 6].getD s.entry.addrSize.toNat 0) s
      else normalAddress (s.entry.addrSize.toNat + 1) s := by
  obtain ⟨-, -, hmode, hsize, -⟩ := Instr.netEntry.inj (decodeEntryByte_entryFlagByte s.entry)
  simp only [step, fetch, selector, hp, decode, decodeAddressForm, hmode, hsize]
  generalize s.entry.addrSize = a
  split
  · match a with
    | 0#2 | 1#2 | 2#2 | 3#2 => rfl
  · match a with
    | 0#2 | 1#2 | 2#2 | 3#2 => rfl

theorem decodeEntry_bind (p : Params) (frm : Memory) (h : Packet) (fuel consumed cur : Nat) :
    (decodeEntry frm cur (h.ptag == .extendedBeacon) >>= fun r => entryTail p frm h fuel consumed cur r.1 r.2) =
      beginTail p frm h fuel consumed cur := by
  unfold decodeEntry beginTail addressTail linkTail
  simp only [bind_assoc, beq_iff_eq]
  refine bind_congr fun flagByte => bind_congr fun age => bind_congr fun address => ?_
  split
  · simp only [bind_assoc]
    rfl
  · rfl

/-- One pass of the loop of R170. -/
theorem loopTail_succ (p : Params) (frm : Memory) (h : Packet) (fuel consumed cur : Nat) :
    loopTail p frm h (fuel + 1) consumed cur =
      if consumed < h.payloadSize.toNat then beginTail p frm h fuel consumed cur else signatureTail frm h cur := by
  unfold loopTail networkEntries
  split
  · rw [← decodeEntry_bind, bind_assoc]
    refine bind_congr fun entry => ?_
    simp only [entryTail]
    split <;> rfl
  · rfl

/-- After a loop test the transaction goes on with the loop. -/
theorem residual_of_loopTest {t : State} (h : t.phase = if t.consumed < t.fields.payloadSize.toNat then .entry else .signature) :
    residual fuel t = loopTail t.params t.frm t.fields (fuel + 1) t.consumed t.cur := by
  rw [loopTail_succ]
  by_cases hlt : t.consumed < t.fields.payloadSize.toNat
  · simp only [if_pos hlt] at h ⊢
    simp only [residual, h]
  · simp only [if_neg hlt] at h ⊢
    simp only [residual, h]

/-- A step that reads bytes and makes the loop test. -/
theorem Simulates.loopTest {t : State} (hstage : 3 ≤ stagesLeft s.phase)
    (hphase : t.phase = if t.consumed < t.fields.payloadSize.toNat then .entry else .signature)
    (hcur : s.cur < t.cur ∧ t.cur ≤ s.frm.length) (henough : s.frm.length ≤ fuel + t.cur)
    (hframe : WithinDecode s t) :
    Simulates s (loopTail s.params s.frm t.fields (fuel + 1) t.consumed t.cur) (.next t) := by
  have hfrm : t.frm = s.frm := by rw [hframe]
  have hparams : t.params = s.params := by rw [hframe]
  have hleft : 0 < stagesLeft t.phase ∧ stagesLeft t.phase ≤ 3 := by
    rw [hphase]
    split <;> decide
  refine .goesOn fuel t ⟨hleft.1, ?_, ?_⟩ ?_ ?_ hframe
  · rw [hfrm]; exact hcur.2
  · rw [hfrm]; exact henough
  · unfold workLeft
    rw [hfrm]
    omega
  · rw [residual_of_loopTest hphase, hfrm, hparams]

theorem simulates_network (hp : s.phase = .network) (hcur : s.cur ≤ s.frm.length) :
    Simulates s (residual fuel s) (step s) := by
  have hzero : s.fields.payloadSize = 0#32 ↔ s.fields.payloadSize.toNat = 0 := BitVec.toNat_inj.symm
  simp only [step_network hp, residual, hp, decodeNetwork, hzero]
  split
  · exact .nextStage (by simp [hp, stagesLeft]) ⟨Nat.le_refl _, hcur⟩ rfl rfl
  · simp only [bind_assoc]
    refine .read ⟨rfl, rfl⟩ (fun _ => rfl) fun tag hle => ?_
    simp only [afterTag]
    split
    · exact .nextStage (by simp [hp, stagesLeft]) ⟨Nat.le_add_right _ _, hle⟩ rfl rfl
    split
    · simp only [bind_assoc]
      exact .loopTest (t := entryLoop (beginPayload .beacon (moveCursor 1 s))) (by simp [hp, stagesLeft]) rfl
        ⟨Nat.lt_succ_self _, hle⟩ (Nat.le_add_right _ _) rfl
    split
    · simp only [bind_assoc]
      exact .loopTest (t := entryLoop (beginPayload .extendedBeacon (moveCursor 1 s))) (by simp [hp, stagesLeft]) rfl
        ⟨Nat.lt_succ_self _, hle⟩ (Nat.le_add_right _ _) rfl
    · exact .raises rfl rfl

/-- The end of an entry: a full list stops the stream, otherwise the loop test is made. -/
theorem Simulates.entryEnd {e : Entry} {cur : Nat} (hon : Underway fuel s) (hstage : stagesLeft s.phase = 3)
    (hcur : s.cur < cur ∧ cur ≤ s.frm.length) :
    Simulates s (entryTail s.params s.frm s.fields fuel s.consumed s.start e cur)
      (.next (if entriesFull s.params s.fields.entries then stopActive .entryCapExceeded s else afterEntry e cur s)) := by
  have henough := hon.enough
  obtain ⟨left, rfl⟩ : ∃ left, fuel = left + 1 := ⟨fuel - 1, by omega⟩
  unfold entryTail
  split
  · exact .settles
  · exact .loopTest (t := afterEntry e cur s) (by omega) rfl hcur (show _ ≤ left + cur by omega) rfl

theorem simulates_entry (hp : s.phase = .entry) (hon : Underway fuel s) : Simulates s (residual fuel s) (step s) := by
  simp only [step_entry hp, residual, hp, beginTail]
  refine .read ⟨rfl, rfl⟩ (fun _ => rfl) fun e _ => .read ⟨rfl, rfl⟩ (fun _ => rfl) fun age hle => ?_
  have henough := hon.enough
  refine .goesOn fuel _ ⟨show 0 < stagesLeft .address by decide, hle, ?_⟩ ?_ rfl rfl
  · show s.frm.length ≤ fuel + (s.cur + 1 + 1)
    omega
  · simp only [workLeft, beginEntry_phase, beginEntry_frm, beginEntry_cur, moveCursor_frm, moveCursor_cur, hp, stagesLeft]
    omega

/-- The address is written: the LinkInfo byte is next, or the entry ends. -/
theorem Simulates.addressEnd {n : Nat} {a : BitVec 32} {q : BitVec 8} (hp : s.phase = .address) (hon : Underway fuel s)
    (hn : 0 < n) (hle : s.cur + n ≤ s.frm.length) :
    Simulates s
      (if s.fields.ptag = .extendedBeacon then
        linkTail s.params s.frm s.fields fuel s.consumed s.start { s.entry with address := a, qualifier := q } (s.cur + n)
      else entryTail s.params s.frm s.fields fuel s.consumed s.start { s.entry with address := a, qualifier := q } (s.cur + n))
      (setAddress a q (moveCursor n s)) := by
  rw [setAddress_eq, moveCursor_fields]
  by_cases hext : s.fields.ptag = .extendedBeacon
  · rw [if_pos hext, if_pos hext]
    have henough := hon.enough
    refine .goesOn fuel _ ⟨show 0 < stagesLeft .link by decide, hle, ?_⟩ ?_ rfl rfl
    · show s.frm.length ≤ fuel + (s.cur + n)
      omega
    · simp only [workLeft, moveCursor_frm, moveCursor_cur, hp, stagesLeft]
      omega
  · rw [if_neg hext, if_neg hext]
    exact .entryEnd hon (by simp [hp, stagesLeft]) ⟨by omega, hle⟩

theorem simulates_address (hp : s.phase = .address) (hon : Underway fuel s) :
    Simulates s (residual fuel s) (step s) := by
  simp only [step_address hp, residual, hp, addressTail, decodeAddress]
  split
  · simp only [bind_assoc]
    exact .read ⟨rfl, rfl⟩ (fun _ => rfl) fun m hle => .addressEnd hp hon Nat.one_pos hle
  · simp only [bind_assoc]
    refine .read ⟨rfl, rfl⟩ (fun _ => rfl) fun a _ => .read ⟨rfl, rfl⟩ (fun _ => rfl) fun q hle => ?_
    rw [moveCursor_moveCursor]
    exact .addressEnd hp hon (Nat.succ_pos _) hle

theorem simulates_link (hp : s.phase = .link) (hon : Underway fuel s) : Simulates s (residual fuel s) (step s) := by
  simp only [step_link hp, residual, hp, linkTail, finishEntry_eq]
  exact .read ⟨rfl, rfl⟩ (fun _ => rfl) fun l hle => .entryEnd hon (by simp [hp, stagesLeft]) ⟨Nat.lt_succ_self _, hle⟩

theorem step_simulates (hon : Underway fuel s) : Simulates s (residual fuel s) (step s) := by
  have hstarted := hon.started
  cases hp : s.phase with
  | idle | boundary | packet => simp [hp, stagesLeft] at hstarted
  | flags => exact simulates_flags hp
  | pid => exact simulates_pid hp
  | route => exact simulates_route hp
  | api => exact simulates_api hp hon.inside
  | timestamp => exact simulates_timestamp hp hon.inside
  | size => exact simulates_size hp hon.inside
  | dispatch => exact simulates_dispatch hp hon.inside
  | network => exact simulates_network hp hon.inside
  | entry => exact simulates_entry hp hon
  | address => exact simulates_address hp hon
  | link => exact simulates_link hp hon
  | signature => exact simulates_signature hp hon.inside
  | crc => exact simulates_crc hp hon.inside

end Stages

/-! ### The run of a decode -/

/-- A decode under way is finished in as many steps as work is left, and gives what the transaction gives. -/
theorem run_settles {fuel : Nat} {s : State} (hon : Underway fuel s) :
    ∃ n ≤ workLeft s, core.run n s = .next (settle (residual fuel s) s) := by
  induction hw : workLeft s using Nat.strong_induction_on generalizing fuel s with
  | _ w ih =>
    have hstarted : 0 < w := hw ▸ Nat.add_pos_left hon.started _
    have hsim := step_simulates hon
    generalize hr : step s = r at hsim
    cases hsim with
    | settles => exact ⟨1, hstarted, run_succ_of_step 0 hr⟩
    | goesOn fuel' t hon' hwork hres hframe =>
      obtain ⟨n, hn, hrun⟩ := ih (workLeft t) (hw ▸ hwork) hon' rfl
      refine ⟨n + 1, by omega, ?_⟩
      rw [run_succ_of_step n hr, hrun, hres, hframe]
      rfl

end Sys2Proof.Machine
end

section
/-! SUPPORT. A whole FEED on the machine: the chunk is taken, the boundary tested and a frame decoded, as the transaction `feed` has it. -/

namespace Sys2Proof.Machine


/-- A change of one element depends on what the change makes of that element only. -/
theorem modify_congr {α : Type} {l : List α} {k : Nat} {f g : α → α} {a : α} (hk : l[k]? = some a) (h : f a = g a) :
    l.modify k f = l.modify k g := by
  refine List.ext_getElem? fun j => ?_
  rw [List.getElem?_modify, List.getElem?_modify]
  by_cases hj : k = j
  · subst hj
    simp [hk, h]
  · simp [hj]

/-- A FEED that returns to rest leaves nothing of the decode behind. -/
theorem finish_of_atRest {s t : State} {f g : Stream → Stream} (hidle : s.phase = .idle) (hrest : AtRest s)
    (hparams : t.params = s.params) (hstreams : t.streams.modify t.active f = s.streams.modify t.active g) :
    finish f t = { s with inputs := t.inputs, active := t.active, streams := s.streams.modify t.active g } := by
  obtain ⟨hfrm, hcur, hfields, hentry, hconsumed, hstart⟩ := hrest
  simp only [finish, updateActive, hidle, hfrm, hcur, hfields, hentry, hconsumed, hstart, hparams, hstreams]

/-- What a FEED that returns does to its stream. -/
def settleStream : Decode Packet → Stream → Stream
  | .ok packet, d => { d with response := some (.produced packet) }
  | .error (.raised k), d => { d with response := some (.decodeError k) }
  | .error (.refused why), d => { d with response := none, stopped := some why }

theorem settle_eq_finish (d : Decode Packet) (s : State) : settle d s = finish (settleStream d) s := by
  rcases d with (k | why) | packet <;> rfl

/-- The idle block has taken a chunk that fits: it stands behind the buffered bytes, and the boundary test is next (R221). -/
def chunkTaken (k : Nat) (chunk : List Byte) (rest : List Input) (s : State) : State :=
  updateActive (fun d => { d with buf := append d.buf chunk, response := none })
    { s with inputs := rest, active := k, phase := .boundary }

theorem activeBuf_chunkTaken {s : State} {k : Nat} {d : Stream} (chunk : List Byte) (rest : List Input)
    (hd : s.streams[k]? = some d) : activeBuf (chunkTaken k chunk rest s) = append d.buf chunk := by
  simp [activeBuf, chunkTaken, hd]

theorem step_takesChunk {s : State} {k : Nat} {chunk : List Byte} {rest : List Input} {d : Stream} (hidle : s.phase = .idle)
    (hinputs : s.inputs = .feed k chunk :: rest) (hd : s.streams[k]? = some d) (hrun : d.stopped = none) :
    step s = .next (if overBufCap s.params d.buf chunk then
        stopActive .bufferCapExceeded { s with inputs := rest, active := k }
      else chunkTaken k chunk rest s) := by
  simp only [step, fetch, selector, hidle, takeInput, hinputs, acceptFeed, hd, hrun]
  split <;> rfl

/-- The boundary test (R222). -/
theorem step_boundary {s : State} (hp : s.phase = .boundary) :
    step s = if lastByte (activeBuf s) = some Config.sentinel then execFeedFrame s else execFeedNeedMore s := by
  simp only [step, fetch, selector, hp, decode]
  split <;> rfl

/-- A frame that was handed over is decoded as the transaction decodes it (R200). -/
theorem run_of_packet {s : State} (hp : s.phase = .packet) :
    ∃ n ≤ s.frm.length + 12, core.run n s = .next (finish (settleStream (decodePacket s.params s.frm)) s) := by
  have hstart : step s = execPktDecode s := by simp only [step, fetch, selector, hp, decode, exec]
  obtain ⟨n, hn, hrun⟩ := run_settles (fuel := s.frm.length)
    (s := { s with cur := 0, fields := Packet.blank, entry := Entry.blank, consumed := 0, start := 0, phase := .flags })
    ⟨show 0 < stagesLeft .flags by decide, Nat.zero_le _, Nat.le_add_right _ _⟩
  have hn : n ≤ 11 + s.frm.length := hn
  refine ⟨n + 1, by omega, (run_succ_of_step n hstart).trans (hrun.trans ?_)⟩
  rw [settle_eq_finish, decodePacket_eq_flagsTail]
  rfl

/-- FEED.FRAME has handed over the buffer (R223). -/
def handedOver (s : State) : State :=
  { updateActive (fun d => { d with buf := [] }) s with frm := activeBuf s, phase := .packet }

theorem finish_handedOver (f : Stream → Stream) (s : State) :
    finish f (handedOver s) = finish (fun d => f { d with buf := [] }) s := by
  have hstreams : (handedOver s).streams.modify s.active f = s.streams.modify s.active (fun d => f { d with buf := [] }) :=
    List.modify_modify_eq _ _ _ _
  simp only [finish, updateActive, ← hstreams]
  rfl

/-- A framed buffer is handed over, decoded and answered (R223, R200). -/
theorem run_of_framed {s : State} (hp : s.phase = .boundary) (hlast : lastByte (activeBuf s) = some Config.sentinel) :
    ∃ n ≤ (activeBuf s).length + 13, core.run n s =
      .next (finish (fun d => settleStream (decodePacket s.params (activeBuf s)) { d with buf := [] }) s) := by
  have hhand : step s = .next (handedOver s) := (step_boundary hp).trans (if_pos hlast)
  obtain ⟨n, hn, hrun⟩ := run_of_packet (s := handedOver s) rfl
  have hn : n ≤ (activeBuf s).length + 12 := hn
  rw [finish_handedOver] at hrun
  exact ⟨n + 1, by omega, (run_succ_of_step n hhand).trans hrun⟩

/-- A framed buffer is decoded in the transaction, and its stream answers what the decode gives. -/
theorem feed_of_framed {p : Params} {k : Nat} {d : Stream} {chunk : List Byte} (hfits : overBufCap p d.buf chunk = false)
    (hlast : lastByte (append d.buf chunk) = some Config.sentinel) :
    feed p k d chunk = settleStream (decodePacket p (append d.buf chunk)) { d with buf := [], response := none } := by
  simp only [feed, hfits, hlast, Bool.false_eq_true, if_false, if_true]
  rcases decodePacket p (append d.buf chunk) with (kind | why) | packet <;> rfl

/-- Settles O58: the run takes the chunk, tests for a boundary, and decodes a frame in step with the transaction. -/
theorem feedRunIsTheTransaction : Obligations.FeedRunIsTheTransaction := by
  intro s k chunk rest d hidle hrest hinputs hd hrun
  have htake := step_takesChunk hidle hinputs hd hrun
  have hbuf := activeBuf_chunkTaken chunk rest hd
  cases hover : overBufCap s.params d.buf chunk with
  | true =>
    rw [if_pos hover] at htake
    refine ⟨1, by omega, (run_succ_of_step 0 htake).trans (congrArg _ (finish_of_atRest hidle hrest rfl ?_))⟩
    exact modify_congr hd (by simp only [feed, hover, if_true])
  | false =>
    rw [hover, if_neg Bool.false_ne_true] at htake
    by_cases hlast : lastByte (append d.buf chunk) = some Config.sentinel
    · obtain ⟨n, hn, hframe⟩ := run_of_framed (s := chunkTaken k chunk rest s) rfl (hbuf ▸ hlast)
      rw [hbuf, append, List.length_append] at hn
      refine ⟨n + 1, by omega,
        (run_succ_of_step n htake).trans (hframe.trans (congrArg _ (finish_of_atRest hidle hrest rfl ?_)))⟩
      rw [hbuf]
      exact (List.modify_modify_eq _ _ _ _).trans (modify_congr hd (feed_of_framed hover hlast).symm)
    · have hmore := step_boundary (s := chunkTaken k chunk rest s) rfl
      rw [hbuf, if_neg hlast] at hmore
      refine ⟨2, by omega, (run_succ_of_step 1 htake).trans ((run_succ_of_step 0 hmore).trans
        (congrArg _ (finish_of_atRest hidle hrest rfl ?_)))⟩
      refine (List.modify_modify_eq _ _ _ _).trans (modify_congr hd ?_)
      simp only [feed, hover, hlast, Bool.false_eq_true, if_false, Function.comp_apply]
      rfl

end Sys2Proof.Machine
end

section
/-! SUPPORT. The round trip of whole frames: the decoder of Sys2Proof/Machine/Transaction.lean reads back what the layout of
Sys2Proof/Machine/Wire.lean writes (`decodePacketAt_encodeFrame`), and with it the block answers a frame with its Packet. -/

namespace Sys2Proof.Machine

/-! ### Reading what was written -/

/-- `bytes` is what the frame has from the cursor on. -/
def Ahead (frm : Memory) (cur : Nat) (bytes : List Byte) : Prop := ∃ front, front.length = cur ∧ frm = front ++ bytes

section

variable {frm : Memory} {cur : Nat} {rest : List Byte}

theorem Ahead.advance {bytes : List Byte} (h : Ahead frm cur (bytes ++ rest)) : Ahead frm (cur + bytes.length) rest := by
  obtain ⟨front, rfl, rfl⟩ := h
  exact ⟨front ++ bytes, List.length_append, (List.append_assoc _ _ _).symm⟩

theorem Ahead.length_le {bytes : List Byte} (h : Ahead frm cur bytes) : cur + bytes.length ≤ frm.length := by
  obtain ⟨front, rfl, rfl⟩ := h
  exact List.length_append.ge

theorem Ahead.head {b : Byte} (h : Ahead frm cur (b :: rest)) : frm[cur]? = some b := by
  obtain ⟨front, rfl, rfl⟩ := h
  simp

theorem Ahead.tail {b : Byte} (h : Ahead frm cur (b :: rest)) : Ahead frm (cur + 1) rest := h.advance (bytes := [b])

/-- A number that fits its bytes is read where it was written (R52, R86). -/
theorem Ahead.rd_number {n v : Nat} (h : Ahead frm cur (leBytes n v ++ rest)) (hv : v < 256 ^ n) :
    rd frm n cur = .ok (v, cur + n) ∧ Ahead frm (cur + n) rest := by
  refine ⟨?_, by simpa using h.advance⟩
  obtain ⟨front, rfl, rfl⟩ := h
  simp only [rd, memRead_leBytes, Nat.mod_eq_of_lt hv]

theorem Ahead.rd_byte {b : Byte} (h : Ahead frm cur (b :: rest)) :
    rd frm 1 cur = .ok (b.toNat, cur + 1) ∧ Ahead frm (cur + 1) rest :=
  Ahead.rd_number (v := b.toNat) (by simpa [leBytes] using h) b.isLt

theorem ok_bind {α β : Type} (a : α) (f : α → Decode β) : (Except.ok a >>= f : Decode β) = f a := rfl

/-! ### The header -/

/-- The three bytes of the flags word make the flags word. -/
theorem packFlags_extractLsb' (f : FlagsWord) :
    packFlags (f.extractLsb' 0 8) (f.extractLsb' 8 8) (f.extractLsb' 16 8) = f := by
  refine BitVec.eq_of_getLsbD_eq fun i hi => ?_
  rw [getLsbD_packFlags]
  simp only [BitVec.getLsbD_extractLsb']
  split
  · rename_i h8
    simp [h8]
  · split
    · simp [show i - 8 < 8 by omega, show 8 + (i - 8) = i by omega]
    · simp [show i - 16 < 8 by omega, show 16 + (i - 16) = i by omega]

theorem flagsLoop_of_terminated {b : Byte} {left : Nat} {got : List Byte} (h : Ahead frm cur (b :: rest))
    (ht : terminated b = true) :
    flagsLoop frm (left + 1) got cur =
      .ok (packFlags ((got ++ [b]).getD 0 0) ((got ++ [b]).getD 1 0) ((got ++ [b]).getD 2 0),
        BitVec.ofNat 2 (got ++ [b]).length, cur + 1) := by
  simp only [flagsLoop, h.head, ht, if_true]

theorem flagsLoop_of_not_terminated {b : Byte} {left : Nat} {got : List Byte} (h : Ahead frm cur (b :: rest))
    (ht : terminated b = false) : flagsLoop frm (left + 1) got cur = flagsLoop frm left (got ++ [b]) (cur + 1) := by
  simp only [flagsLoop, h.head, ht, Bool.false_eq_true, if_false]

/-- Flags bytes that are absent are 0 in the flags word (R27). -/
theorem extractLsb'_of_absent {f : FlagsWord} (h : f.extractLsb' 8 16 = 0#16) :
    f.extractLsb' 8 8 = 0#8 ∧ f.extractLsb' 16 8 = 0#8 := by
  have hbit (i : Nat) (hi : i < 16) : f.getLsbD (8 + i) = false := by
    simpa [hi] using congrArg (fun x => x.getLsbD i) h
  constructor
  · refine BitVec.eq_of_getLsbD_eq fun i hi => ?_
    simpa using fun _ => hbit i (by omega)
  · refine BitVec.eq_of_getLsbD_eq fun i hi => ?_
    have hi' := hbit (8 + i) (by omega)
    rw [← Nat.add_assoc] at hi'
    simpa using fun _ => hi'

theorem decodeFlags_encodeFlags {f : FlagsWord} {flen : BitVec 2} (h : Ahead frm cur (encodeFlags f flen ++ rest))
    (hwire : flagsOnWire f flen = true) :
    decodeFlags frm cur = .ok (f, flen, cur + (encodeFlags f flen).length) := by
  have hbits := packFlags_extractLsb' f
  have ht1 : terminated (f.extractLsb' 0 8) = flag f .terminator0 := by simp [flag, FlagName.pos]
  have ht2 : terminated (f.extractLsb' 8 8) = flag f .terminator1 := by simp [flag, FlagName.pos]
  have ht3 : terminated (f.extractLsb' 16 8) = flag f .terminator2 := by simp [flag, FlagName.pos]
  unfold decodeFlags
  unfold flagsOnWire at hwire
  split at hwire
  · subst flen
    simp only [Bool.and_eq_true, beq_iff_eq] at hwire
    obtain ⟨hterm, habsent⟩ := hwire
    obtain ⟨hb2, hb3⟩ := extractLsb'_of_absent habsent
    have h : Ahead frm cur (f.extractLsb' 0 8 :: rest) := h
    rw [hb2, hb3] at hbits
    rw [Config.flagsMaxBytes, flagsLoop_of_terminated h (ht1.trans hterm)]
    exact congrArg (fun f => Except.ok (f, _)) hbits
  split at hwire
  · subst flen
    simp only [Bool.and_eq_true, beq_iff_eq, Bool.not_eq_true'] at hwire
    obtain ⟨⟨hgoesOn, hterm⟩, hb3⟩ := hwire
    have h : Ahead frm cur (f.extractLsb' 0 8 :: f.extractLsb' 8 8 :: rest) := h
    rw [hb3] at hbits
    rw [Config.flagsMaxBytes, flagsLoop_of_not_terminated h (ht1.trans hgoesOn),
      flagsLoop_of_terminated h.tail (ht2.trans hterm)]
    exact congrArg (fun f => Except.ok (f, _)) hbits
  split at hwire
  · subst flen
    simp only [Bool.and_eq_true, Bool.not_eq_true'] at hwire
    obtain ⟨⟨hgoesOn1, hgoesOn2⟩, hterm⟩ := hwire
    have h : Ahead frm cur (f.extractLsb' 0 8 :: f.extractLsb' 8 8 :: f.extractLsb' 16 8 :: rest) := h
    rw [Config.flagsMaxBytes, flagsLoop_of_not_terminated h (ht1.trans hgoesOn1),
      flagsLoop_of_not_terminated h.tail (ht2.trans hgoesOn2), flagsLoop_of_terminated h.tail.tail (ht3.trans hterm)]
    exact congrArg (fun f => Except.ok (f, _)) hbits
  · cases hwire

/-- Every header register fits the field that carries it, and the route format is the standard one. -/
structure HeaderFits (p : Packet) : Prop where
  flags : flagsOnWire p.flags p.flen = true
  routeset : flag p.flags .routeset = false
  route0 : p.route0.sys.toNat < 256 ∧ p.route0.sub.toNat < 256
  route1 : p.route1.sys.toNat < 256 ∧ p.route1.sub.toNat < 256
  apiId : p.apiId.toNat < 256 ^ apiWidth p.flags
  timestamp : p.timestamp.toNat < 256 ^ timestampWidth p.flags
  payloadSize : p.payloadSize.toNat < 256 ^ sizeWidth p.flags

theorem decodeHeader_encodeHeader {p : Packet} (h : Ahead frm cur (encodeHeader p ++ rest)) (hfits : HeaderFits p) :
    decodeHeader frm cur =
      .ok ({ p with ptag := .ack, entries := [], signature := 0, crcValue := 0 }, cur + (encodeHeader p).length) := by
  simp only [encodeHeader, encodeRoute, List.append_assoc] at h
  have hflags := decodeFlags_encodeFlags h hfits.flags
  obtain ⟨hpid, h⟩ := h.advance.rd_number p.pid.isLt
  obtain ⟨ha, h⟩ := h.rd_number hfits.route0.1
  obtain ⟨hb, h⟩ := h.rd_number hfits.route0.2
  obtain ⟨hc, h⟩ := h.rd_number hfits.route1.1
  obtain ⟨hd, h⟩ := h.rd_number hfits.route1.2
  obtain ⟨hapi, h⟩ := h.rd_number hfits.apiId
  obtain ⟨htime, h⟩ := h.rd_number hfits.timestamp
  obtain ⟨hsize, h⟩ := h.rd_number hfits.payloadSize
  simp only [decodeHeader, hflags, ok_bind, hpid, hfits.routeset, Bool.false_eq_true, if_false, ha, hb, hc, hd, hapi, htime,
    hsize, BitVec.ofNat_toNat, BitVec.setWidth_eq]
  refine congrArg (fun c => Except.ok (_, c)) ?_
  simp only [encodeHeader, encodeRoute, List.length_append, leBytes_length]
  omega

/-! ### An entry -/

/-- The flag byte of an entry gives its bits back (R80). -/
theorem entryOfFlagByte_entryFlagByte (e : Entry) :
    entryOfFlagByte (entryFlagByte e) = { e with age := 0, address := 0, qualifier := 0, link := none } := by
  obtain ⟨hdtn, hactive, hmode, hsize, hhops⟩ := Instr.netEntry.inj (decodeEntryByte_entryFlagByte e)
  simp only [entryOfFlagByte, hdtn, hactive, hmode, hsize, hhops, Entry.blank]

/-- The LinkInfo byte gives its record back (R84). -/
theorem decodeLinkInfo_encodeLinkByte (l : LinkInfo) :
    decodeLinkInfo (encodeLinkByte l.packetSize l.speed l.dlOnly l.halt) = l := by
  have h : decodeLinkByte (encodeLinkByte l.packetSize l.speed l.dlOnly l.halt) =
      .netLinkInfo l.packetSize l.speed l.dlOnly l.halt := Decoded.op.inj (Laws.RoundTrip.netLinkInfo _ _ _ _ rfl)
  obtain ⟨hpacketSize, hspeed, hdlOnly, hhalt⟩ := Instr.netLinkInfo.inj h
  simp only [decodeLinkInfo, hpacketSize, hspeed, hdlOnly, hhalt]

/-- The micro-mode byte splits back into its address and qualifier bits (R82). -/
theorem decodeAddress_encodeAddress_micro {e : Entry} (hmode : e.sizeMode = true)
    (h : Ahead frm cur (encodeAddress e ++ rest)) (hwire : addressOnWire e = true) :
    decodeAddress frm cur true e.addrSize = .ok (e.address, e.qualifier, cur + 1) := by
  simp only [addressOnWire, hmode, if_true, Bool.and_eq_true, decide_eq_true_eq] at hwire
  obtain ⟨haddress, hqualifier⟩ := hwire
  simp only [encodeAddress, hmode, if_true] at h
  have hbits : [0, 2, 4, 6].getD e.addrSize.toNat 0 = qualifierBits e.addrSize := by
    generalize e.addrSize = a
    revert a
    decide
  have hle : qualifierBits e.addrSize ≤ 8 := by
    unfold qualifierBits
    omega
  obtain ⟨hbyte, -⟩ := h.rd_byte
  generalize qualifierBits e.addrSize = qb at *
  have hpow : 2 ^ (8 - qb) * 2 ^ qb = 256 := by
    rw [← pow_add, Nat.sub_add_cancel hle]
    rfl
  have hlt : e.address.toNat * 2 ^ qb + e.qualifier.toNat < 256 := by nlinarith
  rw [BitVec.toNat_ofNat, Nat.mod_eq_of_lt hlt] at hbyte
  have hdiv : (e.address.toNat * 2 ^ qb + e.qualifier.toNat) / 2 ^ qb = e.address.toNat := by
    rw [Nat.mul_comm, Nat.mul_add_div (by positivity), Nat.div_eq_of_lt hqualifier, Nat.add_zero]
  have hmod : (e.address.toNat * 2 ^ qb + e.qualifier.toNat) % 2 ^ qb = e.qualifier.toNat := by
    rw [Nat.mul_add_mod', Nat.mod_eq_of_lt hqualifier]
  simp only [decodeAddress, if_true, hbits, hbyte, ok_bind, microAddress, microQualifier, Nat.shiftRight_eq_div_pow, hdiv,
    Nat.one_shiftLeft, Nat.and_two_pow_sub_one_eq_mod, hmod, BitVec.ofNat_toNat, BitVec.setWidth_eq]

theorem decodeAddress_encodeAddress {e : Entry} (h : Ahead frm cur (encodeAddress e ++ rest)) (hwire : addressOnWire e = true) :
    decodeAddress frm cur e.sizeMode e.addrSize = .ok (e.address, e.qualifier, cur + (encodeAddress e).length) := by
  cases hmode : e.sizeMode with
  | true =>
    rw [decodeAddress_encodeAddress_micro hmode h hwire]
    simp [encodeAddress, hmode]
  | false =>
    simp only [addressOnWire, hmode, Bool.false_eq_true, if_false, decide_eq_true_eq] at hwire
    simp only [encodeAddress, hmode, Bool.false_eq_true, if_false, List.append_assoc, List.cons_append, List.nil_append] at h
    obtain ⟨haddress, h⟩ := h.rd_number hwire
    obtain ⟨hqualifier, -⟩ := h.rd_byte
    simp only [decodeAddress, Bool.false_eq_true, if_false, haddress, hqualifier, ok_bind, BitVec.ofNat_toNat,
      BitVec.setWidth_eq]
    simp [encodeAddress, hmode, Nat.add_assoc]

theorem decodeEntry_encodeEntry {e : Entry} (h : Ahead frm cur (encodeEntry e ++ rest)) (hwire : addressOnWire e = true) :
    decodeEntry frm cur e.link.isSome = .ok (e, cur + (encodeEntry e).length) := by
  simp only [encodeEntry, List.append_assoc, List.cons_append, List.nil_append] at h
  obtain ⟨hflag, h⟩ := h.rd_byte
  obtain ⟨hage, h⟩ := h.rd_byte
  have haddress := decodeAddress_encodeAddress h hwire
  simp only [decodeEntry, hflag, hage, ok_bind, BitVec.ofNat_toNat, BitVec.setWidth_eq, entryOfFlagByte_entryFlagByte, haddress]
  cases hlink : e.link with
  | none =>
    have he : { e with link := none } = e := by rw [← hlink]
    refine congrArg₂ (fun e c => Except.ok (e, c)) he ?_
    simp only [encodeEntry, encodeLink, hlink, List.length_append, List.length_cons, List.length_nil]
    omega
  | some l =>
    rw [hlink] at h
    obtain ⟨hl, -⟩ := h.advance.rd_byte
    simp only [Option.isSome_some, if_true, hl, ok_bind, BitVec.ofNat_toNat, BitVec.setWidth_eq, decodeLinkInfo_encodeLinkByte]
    have he : { e with link := some l } = e := by rw [← hlink]
    refine congrArg₂ (fun e c => Except.ok (e, c)) he ?_
    simp only [encodeEntry, encodeLink, hlink, List.length_append, List.length_cons, List.length_nil]
    omega

theorem entryWidth_eq_length (e : Entry) : entryWidth e = (encodeEntry e).length := by
  have haddress : (encodeAddress e).length = if e.sizeMode then 1 else e.addrSize.toNat + 2 := by
    unfold encodeAddress
    split <;> simp
  have hlink : (encodeLink e.link).length = if e.link.isSome then 1 else 0 := by
    cases e.link <;> rfl
  simp only [entryWidth, encodeEntry, List.length_append, haddress, hlink, List.length_cons, List.length_nil]

/-! ### The payload -/

theorem withinCap_mono {c : Option Nat} {m n : Nat} (hle : m ≤ n) (h : withinCap c n = true) : withinCap c m = true := by
  cases c with
  | none => rfl
  | some c => exact decide_eq_true (hle.trans (of_decide_eq_true h))

/-- The entry loop reads back a list of entries, and ends where the declared size does (R170, R176, R180). -/
theorem networkEntries_encodeEntries {p : Params} {declared : Nat} {ext : Bool} (es : List Entry) {fuel consumed : Nat}
    {got : List Entry} (h : Ahead frm cur (es.flatMap encodeEntry ++ rest))
    (hwire : ∀ e ∈ es, addressOnWire e = true ∧ e.link.isSome = ext)
    (hdeclared : declared = consumed + (es.flatMap encodeEntry).length)
    (hfuel : (es.flatMap encodeEntry).length < fuel)
    (hcap : withinCap p.entryCap (got.length + es.length) = true) :
    networkEntries p frm declared ext fuel got consumed cur = .ok (got ++ es, cur + (es.flatMap encodeEntry).length) := by
  induction es generalizing cur fuel consumed got with
  | nil =>
    obtain ⟨fuel, rfl⟩ : ∃ n, fuel = n + 1 := ⟨fuel - 1, by omega⟩
    simp [networkEntries, hdeclared]
  | cons e es ih =>
    obtain ⟨fuel, rfl⟩ : ∃ n, fuel = n + 1 := ⟨fuel - 1, by omega⟩
    obtain ⟨⟨he, hext⟩, hes⟩ := List.forall_mem_cons.mp hwire
    have hpos : 0 < (encodeEntry e).length := by simp [encodeEntry]
    simp only [List.flatMap_cons, List.length_append, List.append_assoc, List.length_cons] at h hdeclared hfuel hcap ⊢
    have hdecode := decodeEntry_encodeEntry h he
    rw [hext] at hdecode
    have hroom : entriesFull p got = false := entriesFull_eq_false.mpr (withinCap_mono (by omega) hcap)
    have hrest := ih h.advance hes (consumed := consumed + (encodeEntry e).length) (fuel := fuel) (got := got ++ [e])
      (by omega) (by omega) (by simpa [Nat.add_comm, Nat.add_left_comm] using hcap)
    simp only [networkEntries, show consumed < declared by omega, if_true, hdecode, ok_bind, hroom, Bool.false_eq_true,
      if_false, Nat.add_sub_cancel_left, hrest]
    simp [Nat.add_assoc]

theorem length_encodeEntries (es : List Entry) : (es.flatMap encodeEntry).length = (es.map entryWidth).sum := by
  simp only [List.length_flatMap, ← entryWidth_eq_length]

/-- After a beacon tag byte, the whole list of entries is read. -/
theorem networkEntries_beacon {p : Params} {declared : Nat} {ext : Bool} {es : List Entry}
    (h : Ahead frm cur (es.flatMap encodeEntry ++ rest)) (hwire : ∀ e ∈ es, addressOnWire e = true ∧ e.link.isSome = ext)
    (hdeclared : declared = 1 + (es.flatMap encodeEntry).length) (hcap : withinCap p.entryCap es.length = true) :
    networkEntries p frm declared ext (frm.length + 1) [] 1 cur = .ok (es, cur + (es.flatMap encodeEntry).length) := by
  have hlen := h.length_le
  rw [List.length_append] at hlen
  exact networkEntries_encodeEntries es h hwire hdeclared (by omega) (by simpa using hcap)

/-- The payload of a Packet gives back its tag and its entries (R170). -/
theorem decodeNetwork_encodePayload {p : Params} {packet : Packet} (h : Ahead frm cur (encodePayload packet ++ rest))
    (hwire : payloadOnWire packet = true) (hcap : withinCap p.entryCap packet.entries.length = true) :
    decodeNetwork p frm cur packet.payloadSize.toNat =
      .ok (packet.ptag, packet.entries, cur + (encodePayload packet).length) := by
  unfold encodePayload at h ⊢
  unfold payloadOnWire at hwire
  cases htag : packet.ptag with
  | ack =>
    simp only [htag, Bool.and_eq_true, beq_iff_eq, List.isEmpty_iff] at hwire
    obtain ⟨hsize, hnone⟩ := hwire
    simp [decodeNetwork, hsize, hnone]
  | requestBeacon =>
    simp only [htag, Bool.and_eq_true, beq_iff_eq, List.isEmpty_iff] at hwire h
    obtain ⟨hsize, hnone⟩ := hwire
    obtain ⟨hbyte, -⟩ := h.rd_byte
    simp [decodeNetwork, hsize, hnone, hbyte, ok_bind]
  | beacon =>
    simp only [htag, Bool.and_eq_true, beq_iff_eq, List.all_eq_true, Option.isNone_iff_eq_none, ← length_encodeEntries]
      at hwire h
    obtain ⟨hsize, hes⟩ := hwire
    obtain ⟨hbyte, h⟩ := h.rd_byte
    have hentries := networkEntries_beacon (ext := false) h (fun e he => ⟨(hes e he).1, by simp [(hes e he).2]⟩) hsize hcap
    have hne : packet.payloadSize.toNat ≠ 0 := by omega
    have hbyte : rd frm 1 cur = .ok (0x00, cur + 1) := hbyte
    simp only [decodeNetwork, if_neg hne, hbyte, ok_bind, Nat.reduceEqDiff, zero_ne_one, if_true, if_false, hentries]
    refine congrArg (fun c => Except.ok (_, _, c)) ?_
    rw [List.length_cons]
    omega
  | extendedBeacon =>
    simp only [htag, Bool.and_eq_true, beq_iff_eq, List.all_eq_true, ← length_encodeEntries] at hwire h
    obtain ⟨hsize, hes⟩ := hwire
    obtain ⟨hbyte, h⟩ := h.rd_byte
    have hentries := networkEntries_beacon h hes hsize hcap
    have hne : packet.payloadSize.toNat ≠ 0 := by omega
    have hbyte : rd frm 1 cur = .ok (0x05, cur + 1) := hbyte
    simp only [decodeNetwork, if_neg hne, hbyte, ok_bind, Nat.reduceEqDiff, if_true, if_false, hentries]
    refine congrArg (fun c => Except.ok (_, _, c)) ?_
    rw [List.length_cons]
    omega

end

/-- A trailer field is as wide as its flag bit says, and 0 where it is absent (R85). -/
theorem trailer_fits {present : Bool} {v : BitVec 16} (h : present = true ∨ v = 0#16) :
    v.toNat < 256 ^ trailerWidth present := by
  cases present with
  | true => exact v.isLt
  | false => simp [trailerWidth, h.resolve_left Bool.false_ne_true]

/-- What a frame decodes to, and how far it is read: everything but its terminator (R71, R204). -/
theorem decodePacketAt_encodeFrame {p : Params} {packet : Packet} (hwire : packetOnWire packet = true)
    (hcap : withinCap p.entryCap packet.entries.length = true) :
    decodePacketAt p (encodeFrame packet) = .ok (packet, (encodeFrame packet).length - 1) := by
  simp only [packetOnWire, Bool.and_eq_true, decide_eq_true_eq, Bool.not_eq_true', beq_iff_eq, Bool.or_eq_true] at hwire
  obtain ⟨⟨⟨⟨⟨⟨⟨⟨⟨⟨⟨hflags, hroute⟩, h0sys⟩, h0sub⟩, h1sys⟩, h1sub⟩, hapi⟩, htime⟩, hsize⟩, hpayload⟩, hsgn⟩, hcrc⟩ := hwire
  have hfits : HeaderFits packet :=
    ⟨hflags, hroute, ⟨h0sys, h0sub⟩, ⟨h1sys, h1sub⟩, by simp [hapi], htime, hsize⟩
  have h : Ahead (encodeFrame packet) 0 (encodeHeader packet ++ (encodePayload packet ++
      (leBytes (trailerWidth (flag packet.flags .sgn)) packet.signature.toNat ++
        (leBytes (trailerWidth (flag packet.flags .crc)) packet.crcValue.toNat ++ [Config.sentinel])))) :=
    ⟨[], rfl, by simp only [encodeFrame, encodeTrailer, List.append_assoc, List.nil_append]⟩
  have hlen : (encodeFrame packet).length = (encodeHeader packet).length + (encodePayload packet).length +
      trailerWidth (flag packet.flags .sgn) + trailerWidth (flag packet.flags .crc) + 1 := by
    simp only [encodeFrame, encodeTrailer, List.length_append, leBytes_length, List.length_singleton]
    omega
  have hheader := decodeHeader_encodeHeader h hfits
  have hnetwork := decodeNetwork_encodePayload h.advance hpayload hcap
  obtain ⟨hsignature, h⟩ := h.advance.advance.rd_number (trailer_fits hsgn)
  obtain ⟨hcrcValue, -⟩ := h.rd_number (trailer_fits hcrc)
  simp only [decodePacketAt, hheader, ok_bind, dispatchPayload, if_pos hapi, hnetwork, hsignature, hcrcValue,
    BitVec.ofNat_toNat, BitVec.setWidth_eq]
  refine congrArg (fun c => Except.ok (packet, c)) ?_
  omega

theorem lastByte_encodeFrame (packet : Packet) : lastByte (encodeFrame packet) = some Config.sentinel :=
  List.getLast?_concat

/-- In the transaction the frame of a Packet, fed to an empty stream, is answered by that Packet. -/
theorem feed_encodeFrame {p : Params} {k : Nat} {d : Stream} {packet : Packet} (hwire : packetOnWire packet = true)
    (hentries : withinCap p.entryCap packet.entries.length = true)
    (hbytes : withinCap p.bufCap (encodeFrame packet).length = true) (hempty : d.buf = []) :
    feed p k d (encodeFrame packet) = { d with buf := [], response := some (.produced packet) } := by
  have hbuf : append d.buf (encodeFrame packet) = encodeFrame packet := by simp [append, hempty]
  have hfits : overBufCap p d.buf (encodeFrame packet) = false := by
    rw [overBufCap_eq_false, hbuf]
    exact hbytes
  have hdecode : decodePacket p (encodeFrame packet) = .ok packet := by
    rw [decodePacket, decodePacketAt_encodeFrame hwire hentries]
    rfl
  simp only [feed, hfits, Bool.false_eq_true, if_false, hbuf, lastByte_encodeFrame, if_true, hdecode]

/-- Settles O60: the run is the transaction (O58), and the transaction decodes the frame that the layout gives the Packet. -/
theorem fedFrameProducesItsPacket : Obligations.FedFrameProducesItsPacket := by
  intro s k packet rest d hwire hentries hbytes hidle hrest hinputs hd hempty hrun
  obtain ⟨n, -, hn⟩ := feedRunIsTheTransaction s k _ rest d hidle hrest hinputs hd hrun
  have hstreams : s.streams.modify k (fun d => feed s.params k d (encodeFrame packet)) =
      s.streams.modify k (fun d => { d with buf := [], response := some (.produced packet) }) :=
    modify_congr hd (feed_encodeFrame hwire hentries hbytes hempty)
  exact ⟨n, hn.trans (by rw [hstreams])⟩

end Sys2Proof.Machine
end

section
/-! SUPPORT. Everything a step can do, said once (`step_outcome`), and the invariants of the state that follow from it. -/

namespace Sys2Proof.Machine

/-! ### Everything a step can do -/

/-- The outcomes of a step. A FEED that returns (`returns`) keeps every byte of the buffers, and the mark of a stopped stream. -/
inductive StepOutcome (s : State) : State → Prop where
  | waits (hidle : s.phase = .idle) (hinputs : s.inputs = []) : StepOutcome s s
  | refusesChunk (k : Nat) (chunk : List Byte) (rest : List Input) (hidle : s.phase = .idle)
      (hinputs : s.inputs = .feed k chunk :: rest) :
      StepOutcome s (stopActive .bufferCapExceeded { s with inputs := rest, active := k })
  | takesChunk (k : Nat) (chunk : List Byte) (rest : List Input) (d : Stream) (hidle : s.phase = .idle)
      (hinputs : s.inputs = .feed k chunk :: rest) (hd : s.streams[k]? = some d)
      (hfits : overBufCap s.params d.buf chunk = false) : StepOutcome s (chunkTaken k chunk rest s)
  | resets (k : Nat) (rest : List Input) (hidle : s.phase = .idle) (hinputs : s.inputs = .reset k :: rest) :
      StepOutcome s { s with
        inputs := rest, streams := s.streams.modify k (fun d => { d with buf := [], response := none }) }
  | handsOver (hp : s.phase = .boundary) (hlast : lastByte (activeBuf s) = some Config.sentinel) :
      StepOutcome s (handedOver s)
  | packetStarts (hp : s.phase = .packet) :
      StepOutcome s { s with
        cur := 0, fields := Packet.blank, entry := Entry.blank, consumed := 0, start := 0, phase := .flags }
  | advances (t : State) (hp : decoding s.phase = true) (h : Advances s t) : StepOutcome s t
  | returns (f : Stream → Stream) (hbusy : s.phase ≠ .idle) (hbuf : ∀ d, (f d).buf = d.buf)
      (hmark : ∀ d, d.stopped ≠ none → (f d).stopped ≠ none) : StepOutcome s (finish f s)

theorem StepOutcome.of_takeInput {s t : State} (hidle : s.phase = .idle) (h : takeInput s = .next t) : StepOutcome s t := by
  obtain ⟨hinputs, rfl⟩ | ⟨k, chunk, rest, hinputs, h⟩ | ⟨k, rest, hinputs, h⟩ := takeInput_next h
  · exact .waits hidle hinputs
  · obtain ⟨d, hd, -, ⟨-, rfl⟩ | ⟨hfits, rfl⟩⟩ := acceptFeed_next h
    · exact .refusesChunk k chunk rest hidle hinputs
    · exact .takesChunk k chunk rest d hidle hinputs hd hfits
  · obtain ⟨-, rfl⟩ := resetStream_next h
    exact .resets k rest hidle hinputs

/-- Only the idle block and the boundary test are outside a decode. -/
theorem decoding_of_ne {p : Phase} (hidle : p ≠ .idle) (hboundary : p ≠ .boundary) : decoding p = true := by
  cases p with
  | idle => exact absurd rfl hidle
  | boundary => exact absurd rfl hboundary
  | _ => rfl

/-- A block that shows a selector is not idle. -/
theorem busy_of_selector {s : State} {sel : Selector} (h : selector s = some sel) : s.phase ≠ .idle := by
  rw [Ne, ← selector_eq_none, h]
  nofun

theorem StepOutcome.of_fetched {s t : State} {sel : Selector} {i : Instr} (hsel : selector s = some sel)
    (hdec : decode sel = .op i) (h : ExecOutcome i s t) : StepOutcome s t := by
  have hbusy := busy_of_selector hsel
  have hstage := stageOf_fetched hsel hdec
  cases h with
  | raised k => exact .returns _ hbusy (fun _ => rfl) (fun _ h => h)
  | entryCap => exact .returns _ hbusy (fun _ => rfl) (fun _ _ => nofun)
  | produced c v hi => exact .returns _ hbusy (fun _ => rfl) (fun _ h => h)
  | packetStarts hi =>
    subst hi
    exact .packetStarts hstage.symm
  | frameHandedOver hi =>
    subst hi
    obtain ⟨hp, hlast⟩ := lastByte_of_fetched_feedFrame hsel hdec
    exact .handsOver hp hlast
  | needsMore b hi => exact .returns _ hbusy (fun _ => rfl) (fun _ h => h)
  | advances t hi h => exact .advances t (decoding_of_ne hbusy (hstage ▸ hi)) h

theorem step_outcome {s t : State} (h : step s = .next t) : StepOutcome s t := by
  obtain ⟨hsel, heq⟩ | ⟨sel, i, hsel, hdec, heq⟩ | ⟨sel, why, hsel, -, heq⟩ := step_cases s
  · exact .of_takeInput (selector_eq_none.mp hsel) (heq.symm.trans h)
  · exact .of_fetched hsel hdec (exec_cases (heq.symm.trans h))
  · rw [heq] at h
    injection h with h
    subst h
    exact .returns _ (busy_of_selector hsel) (fun _ => rfl) (fun _ h => h)

/-! ### The frame snapshot -/

theorem snapshotSound_of_decoding {s : State} (hp : decoding s.phase = true) :
    SnapshotSound s ↔ lastByte s.frm = some Config.sentinel ∧ s.cur ≤ s.frm.length ∧ activeBuf s = [] := by
  simp [SnapshotSound, hp]

theorem snapshotSound_of_not_decoding {s : State} (hp : decoding s.phase = false) : SnapshotSound s ↔ AtRest s := by
  simp [SnapshotSound, hp]

theorem snapshotSound_finish (f : Stream → Stream) (s : State) : SnapshotSound (finish f s) :=
  (snapshotSound_of_not_decoding rfl).mpr ⟨rfl, rfl, rfl, rfl, rfl, rfl⟩

theorem activeBuf_handedOver (s : State) : activeBuf (handedOver s) = [] := by
  simp only [activeBuf, handedOver, updateActive, List.getElem?_modify_eq]
  cases s.streams[s.active]? <;> rfl

/-- Settles O53: FEED.FRAME hands over a buffer that ends in the sentinel, and a decode moves the cursor inside the frame. -/
theorem stepKeepsSnapshotSound : Obligations.StepKeepsSnapshotSound := by
  intro s t h hstep
  cases step_outcome hstep with
  | waits => exact h
  | refusesChunk => exact snapshotSound_finish _ _
  | takesChunk k chunk rest d hidle =>
    have hrest : AtRest s := (snapshotSound_of_not_decoding (by rw [hidle]; rfl)).mp h
    exact (snapshotSound_of_not_decoding rfl).mpr hrest
  | resets k rest hidle =>
    have hrest : AtRest s := (snapshotSound_of_not_decoding (by rw [hidle]; rfl)).mp h
    exact (snapshotSound_of_not_decoding (by rw [hidle]; rfl)).mpr hrest
  | handsOver hp hlast =>
    obtain ⟨-, hcur, -⟩ : AtRest s := (snapshotSound_of_not_decoding (by rw [hp]; rfl)).mp h
    have hcur : (handedOver s).cur = 0 := hcur
    exact (snapshotSound_of_decoding rfl).mpr ⟨hlast, hcur ▸ Nat.zero_le _, activeBuf_handedOver s⟩
  | packetStarts hp =>
    obtain ⟨hlast, -, hbuf⟩ := (snapshotSound_of_decoding (by rw [hp]; rfl)).mp h
    exact (snapshotSound_of_decoding rfl).mpr ⟨hlast, Nat.zero_le _, hbuf⟩
  | advances t hp hadv =>
    obtain ⟨hlast, hcur, hbuf⟩ := (snapshotSound_of_decoding hp).mp h
    obtain ⟨hp', -, hinside, -, hframe⟩ := hadv
    have hfrm : t.frm = s.frm := by rw [hframe]
    refine (snapshotSound_of_decoding hp').mpr ⟨hfrm ▸ hlast, ?_, ?_⟩
    · rw [hfrm]
      omega
    · rw [← hbuf, hframe]
      rfl
  | returns f => exact snapshotSound_finish _ _

/-! ### The capacities -/

theorem withinCap_zero (c : Option Nat) : withinCap c 0 = true := by
  cases c <;> simp [withinCap]

/-- A FEED that returns without writing a buffer keeps the capacities: the entry list is empty again. -/
theorem withinCapacities_finish {f : Stream → Stream} {s : State} (h : WithinCapacities s) (hbuf : ∀ d, (f d).buf = d.buf) :
    WithinCapacities (finish f s) :=
  ⟨forall_mem_modify h.1 fun d _ hd => by rw [hbuf]; exact hd, withinCap_zero _⟩

theorem withinCap_of_entriesMove {s t : State} (h : EntriesMove s t)
    (hs : withinCap s.params.entryCap s.fields.entries.length = true) :
    withinCap s.params.entryCap t.fields.entries.length = true := by
  obtain heq | heq | ⟨hroom, heq⟩ := h
  · rw [heq]; exact hs
  · rw [heq]; exact withinCap_zero _
  · rw [heq, List.length_append]; exact entriesFull_eq_false.mp hroom

/-- Settles O52: a chunk is appended and an entry added only where there is room. -/
theorem stepKeepsWithinCapacities : Obligations.StepKeepsWithinCapacities := by
  intro s t h hstep
  obtain ⟨hbufs, hentries⟩ := h
  cases step_outcome hstep with
  | waits => exact ⟨hbufs, hentries⟩
  | refusesChunk k chunk rest =>
    exact withinCapacities_finish (s := { s with inputs := rest, active := k }) ⟨hbufs, hentries⟩ fun _ => rfl
  | takesChunk k chunk rest d _ _ hd hfits =>
    refine ⟨forall_mem_modify hbufs fun d' hd' _ => ?_, hentries⟩
    obtain rfl : d = d' := Option.some.inj (hd.symm.trans hd')
    exact overBufCap_eq_false.mp hfits
  | resets => exact ⟨forall_mem_modify hbufs fun _ _ _ => withinCap_zero _, hentries⟩
  | handsOver => exact ⟨forall_mem_modify hbufs fun _ _ _ => withinCap_zero _, hentries⟩
  | packetStarts => exact ⟨hbufs, withinCap_zero _⟩
  | advances t _ hadv =>
    obtain ⟨-, -, -, hmove, hframe⟩ := hadv
    have hentries' := withinCap_of_entriesMove hmove hentries
    rw [hframe]
    exact ⟨hbufs, hentries'⟩
  | returns f _ hbuf => exact withinCapacities_finish ⟨hbufs, hentries⟩ hbuf

/-! ### One stream a step -/

/-- The stream whose turn it is: the one whose FEED is in progress, or the one that the host's next input names. -/
def InTurn (s : State) (k : Nat) : Prop :=
  (s.phase ≠ .idle ∧ k = s.active) ∨ (s.phase = .idle ∧ ∃ i ∈ s.inputs.head?, inputStream i = k)

/-- A step changes the stream whose turn it is, or none, and takes no mark of a stopped stream away. -/
theorem step_streams {s t : State} (h : step s = .next t) :
    t.streams = s.streams ∨ ∃ k f, InTurn s k ∧ t.streams = s.streams.modify k f ∧
      ∀ d : Stream, d.stopped ≠ none → (f d).stopped ≠ none := by
  cases step_outcome h with
  | waits => exact .inl rfl
  | refusesChunk k chunk rest hidle hinputs =>
    exact .inr ⟨k, _, .inr ⟨hidle, _, by rw [hinputs]; rfl, rfl⟩, rfl, fun _ _ => nofun⟩
  | takesChunk k chunk rest d hidle hinputs =>
    exact .inr ⟨k, _, .inr ⟨hidle, _, by rw [hinputs]; rfl, rfl⟩, rfl, fun _ h => h⟩
  | resets k rest hidle hinputs =>
    exact .inr ⟨k, _, .inr ⟨hidle, _, by rw [hinputs]; rfl, rfl⟩, rfl, fun _ h => h⟩
  | handsOver hp => exact .inr ⟨s.active, _, .inl ⟨by rw [hp]; nofun, rfl⟩, rfl, fun _ h => h⟩
  | packetStarts => exact .inl rfl
  | advances t _ hadv =>
    obtain ⟨-, -, -, -, hframe⟩ := hadv
    exact .inl (by rw [hframe])
  | returns f hbusy _ hmark => exact .inr ⟨s.active, f, .inl ⟨hbusy, rfl⟩, rfl, hmark⟩

theorem step_params {s t : State} (h : step s = .next t) : t.params = s.params := by
  cases step_outcome h with
  | advances t _ hadv =>
    obtain ⟨-, -, -, -, hframe⟩ := hadv
    rw [hframe]
  | waits | refusesChunk | takesChunk | resets | handsOver | packetStarts | returns => rfl

/-- Settles O50: the one stream that a step changes keeps its mark. -/
theorem parametersAndRefusalsAreFixed : Obligations.ParametersAndRefusalsAreFixed := by
  intro s t hstep
  refine ⟨step_params hstep, ?_⟩
  obtain heq | ⟨k, f, -, heq, hmark⟩ := step_streams hstep
  · exact ⟨by rw [heq], fun j d hd hstopped => ⟨d, heq ▸ hd, hstopped⟩⟩
  · refine ⟨by rw [heq, List.length_modify], fun j d hd hstopped => ?_⟩
    rw [heq, List.getElem?_modify, hd]
    by_cases hj : k = j
    · exact ⟨f d, by simp [hj], hmark d hstopped⟩
    · exact ⟨d, by simp [hj], hstopped⟩

/-- Settles O56: the one stream that a step changes is the one in turn. -/
theorem otherStreamsAreUntouched : Obligations.OtherStreamsAreUntouched := by
  intro s t j hstep hbusy hidle
  obtain heq | ⟨k, f, hturn, heq, -⟩ := step_streams hstep
  · rw [heq]
  · have hkj : k ≠ j := by
      obtain ⟨hp, rfl⟩ | ⟨hp, i, hi, rfl⟩ := hturn
      · exact (hbusy hp).symm
      · exact hidle hp i hi
    rw [heq, List.getElem?_modify_ne _ _ hkj]

/-! ### What an operation leaves unchanged -/

/-- An operation leaves the parameters, the inputs and the choice of stream, and changes at most the active stream: FEED.FRAME its
buffer, any other operation no buffer. -/
theorem ExecOutcome.frame {i : Instr} {s t : State} (h : ExecOutcome i s t) :
    t.params = s.params ∧ t.inputs = s.inputs ∧ t.active = s.active ∧
      ∃ f, t.streams = s.streams.modify s.active f ∧ (i ≠ .feedFrame → ∀ d, (f d).buf = d.buf) := by
  cases h with
  | raised | entryCap | produced | needsMore => exact ⟨rfl, rfl, rfl, _, rfl, fun _ _ => rfl⟩
  | packetStarts => exact ⟨rfl, rfl, rfl, id, (List.modify_id _ _).symm, fun _ _ => rfl⟩
  | frameHandedOver hi => exact ⟨rfl, rfl, rfl, _, rfl, fun hne => absurd hi hne⟩
  | advances t _ hadv =>
    obtain ⟨-, -, -, -, hframe⟩ := hadv
    rw [hframe]
    exact ⟨rfl, rfl, rfl, id, (List.modify_id _ _).symm, fun _ _ => rfl⟩

/-- A change of one element that keeps what `g` sees of it keeps what `g` sees of the list. -/
theorem map_modify_of_keeps {α β : Type} {f : α → α} {g : α → β} (h : ∀ a, g (f a) = g a) (l : List α) (k : Nat) :
    (l.modify k f).map g = l.map g := by
  refine List.ext_getElem? fun j => ?_
  simp only [List.getElem?_map, List.getElem?_modify]
  cases l[j]? <;> split <;> simp [h]

/-- Settles O48, by the frame of the operations. -/
theorem onlyFeedFrameWritesABuffer : Obligations.OnlyFeedFrameWritesABuffer := by
  intro i s t h
  obtain ⟨hparams, hinputs, hactive, f, hstreams, hbuf⟩ := (exec_cases h).frame
  refine ⟨fun hi => ?_, fun j hj => ?_, hparams, hinputs, hactive⟩
  · rw [hstreams, map_modify_of_keeps (hbuf hi)]
  · rw [hstreams, List.getElem?_modify_ne _ _ hj.symm]

/-- Settles O49: an operation that neither starts nor ends a decode advances in it. -/
theorem frameImmutableAndCursorMonotone : Obligations.FrameImmutableAndCursorMonotone := by
  intro i s t h hbusy hframe hpacket
  cases exec_cases h with
  | raised | entryCap | produced | needsMore => exact absurd rfl hbusy
  | packetStarts hi => exact absurd hi hpacket
  | frameHandedOver hi => exact absurd hi hframe
  | advances t _ hadv =>
    obtain ⟨-, hforward, hinside, -, heq⟩ := hadv
    have hfrm : t.frm = s.frm := by rw [heq]
    refine ⟨hfrm, hforward, fun hcur => ?_, by rw [heq]⟩
    rw [hfrm]
    omega

/-! ### Reset -/

theorem streams_built {p : Params} {n : Nat} {d : Stream} (h : d ∈ (State.built p n).streams) : d = Stream.fresh :=
  List.eq_of_mem_replicate h

/-- Settles O55: after reset every buffer and the entry list are empty, no response is pending, and no decode is in progress. -/
theorem resetMeetsInvariants : Obligations.ResetMeetsInvariants := by
  refine ⟨fun p n => ⟨fun d hd => ?_, ⟨fun d hd => ?_, withinCap_zero _⟩, ?_, packetShape_blank, rfl, fun d hd => ?_⟩, rfl⟩
  · rw [streams_built hd]
    nofun
  · rw [streams_built hd]
    exact withinCap_zero _
  · exact (snapshotSound_of_not_decoding rfl).mpr ⟨rfl, rfl, rfl, rfl, rfl, rfl⟩
  · rw [streams_built hd]
    rfl

end Sys2Proof.Machine
end

section
/-! SUPPORT. The shape of the registers and of the Packets answered (Sys2Proof/Safety.lean) as an invariant of every step: one lemma
per stage, each of what the stage writes, on top of what the earlier stages have settled. -/

namespace Sys2Proof.Machine

/-! ### What the shape says, register by register -/

/-- Only a beacon has entries, and an entry has a LinkInfo record iff the tag is `ExtendedBeacon` (R32, R33). -/
def payloadShape : PayloadTag → List Entry → Bool
  | .ack, es | .requestBeacon, es => es.isEmpty
  | .beacon, es => es.all (fun e => e.link.isNone)
  | .extendedBeacon, es => es.all (fun e => e.link.isSome)

/-- A route id whose high bits are 0 (R31). -/
def RouteId.fits (r : RouteId) : Prop := r.sys.toNat < 256 ∧ r.sub.toNat < 256

/-- The parts of `packetShape` by name. -/
structure PacketShaped (p : Packet) : Prop where
  flags : flagsOnWire p.flags p.flen = true ∨ (p.flen = 0#2 ∧ p.flags = 0#24)
  route0 : p.route0.fits
  route1 : p.route1.fits
  timestamp : p.timestamp.toNat < 2 ^ 48
  payload : payloadShape p.ptag p.entries = true

theorem packetShape_iff {p : Packet} : packetShape p = true ↔ PacketShaped p := by
  simp only [packetShape, Bool.and_eq_true, Bool.or_eq_true, decide_eq_true_eq, beq_iff_eq]
  constructor
  · rintro ⟨⟨⟨⟨⟨⟨hflags, h0sys⟩, h0sub⟩, h1sys⟩, h1sub⟩, htime⟩, hpayload⟩
    refine ⟨hflags, ⟨h0sys, h0sub⟩, ⟨h1sys, h1sub⟩, htime, ?_⟩
    revert hpayload
    cases p.ptag <;> exact id
  · rintro ⟨hflags, ⟨h0sys, h0sub⟩, ⟨h1sys, h1sub⟩, htime, hpayload⟩
    refine ⟨⟨⟨⟨⟨⟨hflags, h0sys⟩, h0sub⟩, h1sys⟩, h1sub⟩, htime⟩, ?_⟩
    revert hpayload
    cases p.ptag <;> exact id

section Registers

variable {p : Packet}

theorem packetShape_flags {f : FlagsWord} {n : BitVec 2} (h : packetShape p = true) (hf : flagsOnWire f n = true) :
    packetShape { p with flags := f, flen := n } = true := by
  obtain ⟨-, h0, h1, htime, hpayload⟩ := packetShape_iff.mp h
  exact packetShape_iff.mpr ⟨.inl hf, h0, h1, htime, hpayload⟩

theorem packetShape_route {a b : RouteId} (h : packetShape p = true) (ha : a.fits) (hb : b.fits) :
    packetShape { p with route0 := a, route1 := b } = true := by
  obtain ⟨hflags, -, -, htime, hpayload⟩ := packetShape_iff.mp h
  exact packetShape_iff.mpr ⟨hflags, ha, hb, htime, hpayload⟩

theorem packetShape_timestamp {v : BitVec 64} (h : packetShape p = true) (hv : v.toNat < 2 ^ 48) :
    packetShape { p with timestamp := v } = true := by
  obtain ⟨hflags, h0, h1, -, hpayload⟩ := packetShape_iff.mp h
  exact packetShape_iff.mpr ⟨hflags, h0, h1, hv, hpayload⟩

theorem packetShape_payload {tag : PayloadTag} {es : List Entry} (h : packetShape p = true)
    (hes : payloadShape tag es = true) : packetShape { p with ptag := tag, entries := es } = true := by
  obtain ⟨hflags, h0, h1, htime, -⟩ := packetShape_iff.mp h
  exact packetShape_iff.mpr ⟨hflags, h0, h1, htime, hes⟩

/-- An entry of the tag's own form is appended (R180). -/
theorem packetShape_append {e : Entry} (h : packetShape p = true)
    (he : (p.ptag = .beacon ∧ e.link.isNone = true) ∨ (p.ptag = .extendedBeacon ∧ e.link.isSome = true)) :
    packetShape { p with entries := p.entries ++ [e] } = true := by
  refine packetShape_payload h ?_
  have hes := (packetShape_iff.mp h).payload
  obtain ⟨htag, he⟩ | ⟨htag, he⟩ := he
  all_goals
    rw [htag] at hes ⊢
    simpa only [payloadShape, List.all_append, List.all_cons, List.all_nil, Bool.and_true, Bool.and_eq_true, he,
      and_true] using hes

end Registers

/-- A value that fits its field fits it in the register as well. -/
theorem toNat_ofNat_lt {w v n : Nat} (h : v < n) : (BitVec.ofNat w v).toNat < n := by
  rw [BitVec.toNat_ofNat]
  exact (Nat.mod_le _ _).trans_lt h

/-! ### The flags word -/

section FlagBytes

variable {b1 b2 b3 : Byte}

@[simp] theorem flag_terminator0_packFlags : flag (packFlags b1 b2 b3) .terminator0 = terminated b1 :=
  getLsbD_packFlags b1 b2 b3 7

@[simp] theorem flag_terminator1_packFlags : flag (packFlags b1 b2 b3) .terminator1 = terminated b2 :=
  getLsbD_packFlags b1 b2 b3 15

@[simp] theorem flag_terminator2_packFlags : flag (packFlags b1 b2 b3) .terminator2 = terminated b3 :=
  getLsbD_packFlags b1 b2 b3 23

theorem flagsOnWire_len1 (h1 : terminated b1 = true) : flagsOnWire (packFlags b1 0#8 0#8) 1#2 = true := by
  have habsent : (packFlags b1 0#8 0#8).extractLsb' 8 16 = 0#16 :=
    BitVec.eq_of_getLsbD_eq fun i _ => by simp [getLsbD_packFlags]
  simpa [flagsOnWire, habsent] using h1

theorem flagsOnWire_len2 (h1 : terminated b1 = false) (h2 : terminated b2 = true) :
    flagsOnWire (packFlags b1 b2 0#8) 2#2 = true := by
  have habsent : (packFlags b1 b2 0#8).extractLsb' 16 8 = 0#8 :=
    BitVec.eq_of_getLsbD_eq fun i _ => by simp [getLsbD_packFlags, show ¬ 16 + i < 8 by omega]
  simpa [flagsOnWire, habsent] using And.intro h1 h2

theorem flagsOnWire_len3 (h1 : terminated b1 = false) (h2 : terminated b2 = false) (h3 : terminated b3 = true) :
    flagsOnWire (packFlags b1 b2 b3) 3#2 = true := by
  simpa [flagsOnWire, and_assoc] using And.intro h1 (And.intro h2 h3)

end FlagBytes

/-! ### Results that keep the shape -/

/-- Every response that the streams hold has its shape. -/
abbrev ResponsesShaped (s : State) : Prop := ∀ d ∈ s.streams, responseShape d.response = true

/-- The state that a result answers, if it answers one, has the shape. -/
def AnswersShaped (r : Result) : Prop := ∀ t, r = .next t → RegistersShaped t

theorem AnswersShaped.next {t : State} (h : RegistersShaped t) : AnswersShaped (.next t) := by
  intro t' heq
  injection heq with heq
  exact heq ▸ h

/-- A FEED that returns leaves blank registers, and its response is the only one that is new. -/
theorem registersShaped_finish {f : Stream → Stream} {s : State} (hs : ResponsesShaped s)
    (hf : ∀ d, responseShape (f d).response = true) : RegistersShaped (finish f s) :=
  ⟨packetShape_blank, stageShape_finish f s, forall_mem_modify hs fun d _ _ => hf d⟩

theorem AnswersShaped.raiseError {k : ErrorKind} {s : State} (hs : ResponsesShaped s) : AnswersShaped (raiseError k s) :=
  .next (registersShaped_finish hs fun _ => rfl)

theorem AnswersShaped.reading {n : Nat} {s : State} {go : Nat → State → Result} (hs : ResponsesShaped s)
    (hgo : ∀ v, v < 256 ^ n → AnswersShaped (go v (moveCursor n s))) : AnswersShaped (reading n s go) := by
  intro t h
  obtain ⟨-, v, hv, h⟩ | rfl := reading_next h
  · exact hgo v hv t h
  · exact registersShaped_finish hs fun _ => rfl

/-! ### Fields that may be absent -/

/-- The field of a header or trailer operation: a field of no bytes is 0 and is not read. -/
def readingField (n : Nat) (s : State) (go : Nat → State → Result) : Result := if n = 0 then go 0 s else reading n s go

theorem AnswersShaped.readingField {n : Nat} {s : State} {go : Nat → State → Result} (hs : ResponsesShaped s)
    (hgo : ∀ v m, v < 256 ^ n → AnswersShaped (go v (moveCursor m s))) : AnswersShaped (readingField n s go) := by
  unfold Machine.readingField
  split
  · exact hgo 0 0 (by positivity)
  · exact .reading hs fun v hv => hgo v n hv

section Stages

variable {s : State}

theorem step_api_field (hp : s.phase = .api) : step s = readingField (apiWidth s.fields.flags) s setApiId := by
  simp only [step, fetch, selector, hp, decode, decodeApi, apiWidth]
  split
  · split <;> rfl
  · rfl

theorem step_timestamp_field (hp : s.phase = .timestamp) :
    step s = readingField (timestampWidth s.fields.flags) s setTimestamp := by
  simp only [step, fetch, selector, hp, decode, timestampWidth]
  split <;> rfl

theorem step_size_field (hp : s.phase = .size) : step s = readingField (sizeWidth s.fields.flags) s setPayloadSize := by
  simp only [step, fetch, selector, hp, decode, decodeSize, sizeWidth]
  cases flag s.fields.flags .sizelen0 <;> cases flag s.fields.flags .sizelen1 <;> rfl

theorem step_signature_field (hp : s.phase = .signature) :
    step s = readingField (trailerWidth (flag s.fields.flags .sgn)) s setSignature := by
  simp only [step, fetch, selector, hp, decode]
  cases flag s.fields.flags .sgn <;> rfl

theorem step_crc_field (hp : s.phase = .crc) :
    step s = readingField (trailerWidth (flag s.fields.flags .crc)) s producePacket := by
  simp only [step, fetch, selector, hp, decode]
  cases flag s.fields.flags .crc <;> rfl

/-- A trailer field is 0 where its flag is 0 (R85). -/
theorem trailer_zero_of_absent {present : Bool} {v : Nat} (h : v < 256 ^ trailerWidth present) :
    (present || BitVec.ofNat 16 v == 0#16) = true := by
  cases present with
  | true => rfl
  | false =>
    obtain rfl : v = 0 := by simpa [trailerWidth] using h
    rfl

theorem timestampWidth_le (f : FlagsWord) : timestampWidth f ≤ 6 := by
  unfold timestampWidth
  split <;> omega

/-! ### Stage by stage -/

theorem answersShaped_flags (h : RegistersShaped s) (hp : s.phase = .flags) : AnswersShaped (step s) := by
  obtain ⟨hfields, -, hs⟩ := h
  have htake {n : Nat} {f : FlagsWord} (hf : flagsOnWire f (BitVec.ofNat 2 n) = true) : AnswersShaped (takeFlags n f s) := by
    intro t ht
    obtain ⟨-, rfl⟩ | rfl := takeFlags_next ht
    · exact ⟨packetShape_flags hfields hf, hf, hs⟩
    · exact registersShaped_finish hs fun _ => rfl
  rw [step_flags hp]
  unfold decodeFlagBytes
  split
  · exact .raiseError hs
  split
  · rename_i h1
    exact htake (flagsOnWire_len1 h1)
  rename_i h1
  split
  · exact .raiseError hs
  split
  · rename_i h2
    exact htake (flagsOnWire_len2 (by simpa using h1) h2)
  rename_i h2
  split
  · exact .raiseError hs
  split
  · rename_i h3
    exact htake (flagsOnWire_len3 (by simpa using h1) (by simpa using h2) h3)
  · exact .raiseError hs

theorem answersShaped_pid (h : RegistersShaped s) (hp : s.phase = .pid) : AnswersShaped (step s) := by
  obtain ⟨hfields, hstage, hs⟩ := h
  have hflags : flagsDecoded s.fields = true := by simpa only [stageShape, hp] using hstage
  rw [step_pid hp]
  exact .reading hs fun v _ => .next ⟨hfields, hflags, hs⟩

theorem answersShaped_route (h : RegistersShaped s) (hp : s.phase = .route) : AnswersShaped (step s) := by
  obtain ⟨hfields, hstage, hs⟩ := h
  have hflags : flagsDecoded s.fields = true := by simpa only [stageShape, hp] using hstage
  rw [step_route hp]
  split
  · exact .raiseError hs
  · rename_i hstandard
    have hroute : routeDecoded s.fields = true := by simp [routeDecoded, hflags, hstandard]
    exact .reading hs fun a ha => .reading hs fun b hb => .reading hs fun c hc => .reading hs fun d hd =>
      .next ⟨packetShape_route hfields ⟨toNat_ofNat_lt ha, toNat_ofNat_lt hb⟩ ⟨toNat_ofNat_lt hc, toNat_ofNat_lt hd⟩,
        hroute, hs⟩

theorem answersShaped_api (h : RegistersShaped s) (hp : s.phase = .api) : AnswersShaped (step s) := by
  obtain ⟨hfields, hstage, hs⟩ := h
  have hroute : routeDecoded s.fields = true := by simpa only [stageShape, hp] using hstage
  rw [step_api_field hp]
  refine .readingField hs fun v m hv => .next ⟨hfields, ?_, hs⟩
  exact Bool.and_eq_true_iff.mpr ⟨hroute, decide_eq_true (toNat_ofNat_lt hv)⟩

theorem answersShaped_timestamp (h : RegistersShaped s) (hp : s.phase = .timestamp) : AnswersShaped (step s) := by
  obtain ⟨hfields, hstage, hs⟩ := h
  have hapi : apiDecoded s.fields = true := by simpa only [stageShape, hp] using hstage
  rw [step_timestamp_field hp]
  refine .readingField hs fun v m hv => .next ⟨packetShape_timestamp hfields (toNat_ofNat_lt ?_), ?_, hs⟩
  · exact hv.trans_le (Nat.pow_le_pow_right (by decide) (timestampWidth_le s.fields.flags))
  · exact Bool.and_eq_true_iff.mpr ⟨hapi, decide_eq_true (toNat_ofNat_lt hv)⟩

theorem answersShaped_size (h : RegistersShaped s) (hp : s.phase = .size) : AnswersShaped (step s) := by
  obtain ⟨hfields, hstage, hs⟩ := h
  have htime : timestampDecoded s.fields = true := by simpa only [stageShape, hp] using hstage
  rw [step_size_field hp]
  refine .readingField hs fun v m hv => .next ⟨hfields, ?_, hs⟩
  exact Bool.and_eq_true_iff.mpr ⟨htime, decide_eq_true (toNat_ofNat_lt hv)⟩

theorem answersShaped_dispatch (h : RegistersShaped s) (hp : s.phase = .dispatch) : AnswersShaped (step s) := by
  obtain ⟨hfields, hstage, hs⟩ := h
  have hheader : headerDecoded s.fields = true := by simpa only [stageShape, hp] using hstage
  rw [step_dispatch hp]
  split
  · rename_i hzero
    exact .next ⟨hfields, Bool.and_eq_true_iff.mpr ⟨hheader, beq_iff_eq.mpr hzero⟩, hs⟩
  · exact .raiseError hs

/-- After a loop test under a beacon tag the next stage is that of an entry or the trailer's. -/
theorem stageShape_of_loopTest {t : State}
    (hphase : t.phase = if t.consumed < t.fields.payloadSize.toNat then .entry else .signature)
    (hnet : networkDispatched t.fields = true) (htag : t.fields.ptag = .beacon ∨ t.fields.ptag = .extendedBeacon) :
    stageShape t = true := by
  unfold stageShape
  split at hphase <;> rw [hphase] <;> simp [hnet, htag]

theorem answersShaped_network (h : RegistersShaped s) (hp : s.phase = .network) : AnswersShaped (step s) := by
  obtain ⟨hfields, hstage, hs⟩ := h
  have hnet : networkDispatched s.fields = true := by simpa only [stageShape, hp] using hstage
  rw [step_network hp]
  split
  · exact .next ⟨packetShape_payload hfields rfl, hnet, hs⟩
  · refine .reading hs fun tag _ => ?_
    unfold afterTag
    split
    · exact .next ⟨packetShape_payload hfields rfl, hnet, hs⟩
    split
    · exact .next ⟨packetShape_payload hfields rfl, stageShape_of_loopTest rfl hnet (.inl rfl), hs⟩
    split
    · exact .next ⟨packetShape_payload hfields rfl, stageShape_of_loopTest rfl hnet (.inr rfl), hs⟩
    · exact .raiseError hs

theorem answersShaped_entry (h : RegistersShaped s) (hp : s.phase = .entry) : AnswersShaped (step s) := by
  obtain ⟨hfields, hstage, hs⟩ := h
  simp only [stageShape, hp] at hstage
  rw [step_entry hp]
  exact .reading hs fun e _ => .reading hs fun age _ => .next ⟨hfields, Bool.and_eq_true_iff.mpr ⟨hstage, rfl⟩, hs⟩

/-- The end of an entry of the tag's own form. -/
theorem registersShaped_entryEnd {e : Entry} {cur : Nat} (hfields : packetShape s.fields = true) (hs : ResponsesShaped s)
    (hnet : networkDispatched s.fields = true)
    (he : (s.fields.ptag = .beacon ∧ e.link.isNone = true) ∨ (s.fields.ptag = .extendedBeacon ∧ e.link.isSome = true)) :
    RegistersShaped (if entriesFull s.params s.fields.entries then stopActive .entryCapExceeded s else afterEntry e cur s) := by
  split
  · exact registersShaped_finish hs fun _ => rfl
  · exact ⟨packetShape_append hfields he, stageShape_of_loopTest rfl hnet (he.imp And.left And.left), hs⟩

/-- The address is written: under `ExtendedBeacon` the LinkInfo byte is next, under `Beacon` the entry ends. -/
theorem answersShaped_setAddress {n : Nat} {a : BitVec 32} {q : BitVec 8} (h : RegistersShaped s) (hp : s.phase = .address) :
    AnswersShaped (setAddress a q (moveCursor n s)) := by
  obtain ⟨hfields, hstage, hs⟩ := h
  simp only [stageShape, hp, Bool.and_eq_true, Bool.or_eq_true, beq_iff_eq] at hstage
  obtain ⟨⟨hnet, htag⟩, hlink⟩ := hstage
  rw [setAddress_eq]
  refine .next ?_
  by_cases hext : s.fields.ptag = .extendedBeacon
  · rw [moveCursor_fields, if_pos hext]
    exact ⟨hfields, Bool.and_eq_true_iff.mpr ⟨hnet, beq_iff_eq.mpr hext⟩, hs⟩
  · rw [moveCursor_fields, if_neg hext]
    exact registersShaped_entryEnd (s := moveCursor n s) hfields hs hnet (.inl ⟨htag.resolve_right hext, hlink⟩)

theorem answersShaped_address (h : RegistersShaped s) (hp : s.phase = .address) : AnswersShaped (step s) := by
  have ⟨_, _, hs⟩ := h
  rw [step_address hp]
  split
  · exact .reading hs fun m _ => answersShaped_setAddress h hp
  · refine .reading hs fun a _ => .reading hs fun q _ => ?_
    rw [moveCursor_moveCursor]
    exact answersShaped_setAddress h hp

theorem answersShaped_link (h : RegistersShaped s) (hp : s.phase = .link) : AnswersShaped (step s) := by
  obtain ⟨hfields, hstage, hs⟩ := h
  simp only [stageShape, hp, Bool.and_eq_true, beq_iff_eq] at hstage
  obtain ⟨hnet, htag⟩ := hstage
  rw [step_link hp]
  refine .reading hs fun l _ => ?_
  rw [finishEntry_eq]
  exact .next (registersShaped_entryEnd (s := withEntry _ (moveCursor 1 s)) hfields hs hnet (.inr ⟨htag, rfl⟩))

theorem answersShaped_signature (h : RegistersShaped s) (hp : s.phase = .signature) : AnswersShaped (step s) := by
  obtain ⟨hfields, hstage, hs⟩ := h
  have hnet : networkDispatched s.fields = true := by simpa only [stageShape, hp] using hstage
  rw [step_signature_field hp]
  exact .readingField hs fun v m hv => .next ⟨hfields, Bool.and_eq_true_iff.mpr ⟨hnet, trailer_zero_of_absent hv⟩, hs⟩

theorem answersShaped_crc (h : RegistersShaped s) (hp : s.phase = .crc) : AnswersShaped (step s) := by
  obtain ⟨hfields, hstage, hs⟩ := h
  have hsignature : signatureDecoded s.fields = true := by simpa only [stageShape, hp] using hstage
  rw [step_crc_field hp]
  refine .readingField hs fun v m hv => .next (registersShaped_finish hs fun _ => ?_)
  have hanswer : answerDecoded { s.fields with crcValue := BitVec.ofNat 16 v } = true :=
    Bool.and_eq_true_iff.mpr ⟨hsignature, trailer_zero_of_absent hv⟩
  exact Bool.and_eq_true_iff.mpr ⟨hfields, hanswer⟩

theorem answersShaped_boundary (h : RegistersShaped s) (hp : s.phase = .boundary) : AnswersShaped (step s) := by
  obtain ⟨hfields, -, hs⟩ := h
  rw [step_boundary hp]
  split
  · exact .next ⟨hfields, rfl, forall_mem_modify hs fun _ _ h => h⟩
  · exact .next (registersShaped_finish hs fun _ => rfl)

theorem answersShaped_packet (h : RegistersShaped s) (hp : s.phase = .packet) : AnswersShaped (step s) := by
  obtain ⟨-, -, hs⟩ := h
  have hstart : step s = execPktDecode s := by simp only [step, fetch, selector, hp, decode, exec]
  rw [hstart]
  exact .next ⟨packetShape_blank, rfl, hs⟩

/-- An input of the host takes a response away or stops a stream, and the registers stand or are at rest. -/
theorem answersShaped_idle (h : RegistersShaped s) (hp : s.phase = .idle) : AnswersShaped (step s) := by
  have ⟨hfields, hstage, hs⟩ := h
  intro t ht
  cases step_outcome ht with
  | waits => exact h
  | refusesChunk k chunk rest =>
    exact registersShaped_finish (s := { s with inputs := rest, active := k }) hs fun _ => rfl
  | takesChunk => exact ⟨hfields, rfl, forall_mem_modify hs fun _ _ _ => rfl⟩
  | resets => exact ⟨hfields, hstage, forall_mem_modify hs fun _ _ _ => rfl⟩
  | handsOver hp' | packetStarts hp' => rw [hp] at hp'; cases hp'
  | advances t hp' => rw [hp] at hp'; cases hp'
  | returns f hbusy => exact absurd hp hbusy

end Stages

/-- Settles O54: each stage writes a value that fits its field, on top of what the earlier stages have settled. -/
theorem stepKeepsRegistersShaped : Obligations.StepKeepsRegistersShaped := by
  intro s t h hstep
  suffices hanswer : AnswersShaped (step s) from hanswer t hstep
  cases hp : s.phase with
  | idle => exact answersShaped_idle h hp
  | boundary => exact answersShaped_boundary h hp
  | packet => exact answersShaped_packet h hp
  | flags => exact answersShaped_flags h hp
  | pid => exact answersShaped_pid h hp
  | route => exact answersShaped_route h hp
  | api => exact answersShaped_api h hp
  | timestamp => exact answersShaped_timestamp h hp
  | size => exact answersShaped_size h hp
  | dispatch => exact answersShaped_dispatch h hp
  | network => exact answersShaped_network h hp
  | entry => exact answersShaped_entry h hp
  | address => exact answersShaped_address h hp
  | link => exact answersShaped_link h hp
  | signature => exact answersShaped_signature h hp
  | crc => exact answersShaped_crc h hp

end Sys2Proof.Machine
end

section
/-! SUPPORT. A FEED in progress is blind to the other streams: with any others in their place, every operation does the same. -/

namespace Sys2Proof.Machine

/-! ### Runs that differ in the other streams only -/

/-- The two results are next states that differ in the streams only: in each the active stream of `s` has changed in the same way, in
one among the streams of `s`, in the other among `others`. -/
def SameButStreams (s : State) (others : List Stream) (r r' : Result) : Prop :=
  ∃ t f, r = .next t ∧ t.streams = s.streams.modify s.active f ∧
    r' = .next { t with streams := others.modify s.active f }

section Operations

variable {s : State} {others : List Stream}

/-- The decode goes on, and no stream changes. -/
theorem SameButStreams.goesOn {t : State} (ht : t.streams = s.streams) :
    SameButStreams s others (.next t) (.next { t with streams := others }) :=
  ⟨t, id, rfl, by rw [List.modify_id, ht], by rw [List.modify_id]⟩

/-- The FEED returns. -/
theorem SameButStreams.returns (f : Stream → Stream) :
    SameButStreams s others (.next (finish f s)) (.next (finish f { s with streams := others })) :=
  ⟨finish f s, f, rfl, rfl, rfl⟩

/-- A read looks at the frame and the cursor only. -/
theorem SameButStreams.reading {n : Nat} {go go' : Nat → State → Result}
    (hgo : ∀ v, SameButStreams s others (go v (moveCursor n s)) (go' v (moveCursor n { s with streams := others }))) :
    SameButStreams s others (reading n s go) (reading n { s with streams := others } go') := by
  unfold Machine.reading
  cases memRead s.frm s.cur n with
  | none => exact .returns _
  | some v => exact hgo v

theorem SameButStreams.takeFlags {n : Nat} {f : FlagsWord} :
    SameButStreams s others (takeFlags n f s) (takeFlags n f { s with streams := others }) := by
  unfold Machine.takeFlags
  split
  · exact .goesOn rfl
  · exact .returns _

theorem SameButStreams.finishEntry : SameButStreams s others (finishEntry s) (finishEntry { s with streams := others }) := by
  unfold Machine.finishEntry
  split
  · exact .returns _
  · exact .goesOn rfl

theorem SameButStreams.setAddress {a : BitVec 32} {q : BitVec 8} :
    SameButStreams s others (setAddress a q s) (setAddress a q { s with streams := others }) := by
  unfold Machine.setAddress
  dsimp only
  split
  · exact .goesOn rfl
  · exact .finishEntry (s := withEntry _ s)

theorem SameButStreams.normalAddress {n : Nat} :
    SameButStreams s others (normalAddress n s) (normalAddress n { s with streams := others }) :=
  .reading fun _ => .reading (s := moveCursor n s) fun _ => .setAddress (s := moveCursor 1 (moveCursor n s))

theorem SameButStreams.splitAddress {qb : Nat} :
    SameButStreams s others (splitAddress qb s) (splitAddress qb { s with streams := others }) :=
  .reading fun _ => .setAddress (s := moveCursor 1 s)

/-- Every operation but FEED.FRAME looks at no stream; FEED.FRAME looks at the buffer of the active one. -/
theorem exec_sameButStreams (i : Instr) (hactive : others[s.active]? = s.streams[s.active]?) :
    SameButStreams s others (exec i s) (exec i { s with streams := others }) := by
  cases i with
  | flagsLen1 | flagsLen2 | flagsLen3 => exact .takeFlags
  | flagsShort | flagsUnterminated | hdrRouteAlt | dispatchUnsupported | feedNeedMore => exact .returns _
  | hdrPid | hdrApi8 | hdrApi16 | hdrTs48 | hdrSize32 | hdrSize8 | hdrSize16 =>
    dsimp only [exec, execHdrPid, execHdrApi8, execHdrApi16, execHdrTs48, execHdrSize32, execHdrSize8, execHdrSize16]
    refine .reading fun _ => ?_
    exact .goesOn rfl
  | hdrApiNone | hdrTsNone | hdrSize0 | dispatchNet | netAck | pktDecode => exact .goesOn rfl
  | hdrRoute =>
    dsimp only [exec, execHdrRoute]
    refine .reading fun _ => ?_
    refine .reading (s := moveCursor 1 s) fun _ => ?_
    refine .reading (s := moveCursor 1 (moveCursor 1 s)) fun _ => ?_
    refine .reading (s := moveCursor 1 (moveCursor 1 (moveCursor 1 s))) fun _ => ?_
    exact .goesOn rfl
  | addrN8 | addrN16 | addrN24 | addrN32 => exact .normalAddress
  | addrM8_0 | addrM6_2 | addrM4_4 | addrM2_6 => exact .splitAddress
  | netBeacon | netReqBeacon | netExtBeacon =>
    dsimp only [exec, execNetBeacon, execNetReqBeacon, execNetExtBeacon, readTag]
    refine .reading fun _ => ?_
    exact .goesOn rfl
  | netBadTag => exact .reading fun _ => .returns _
  | netEntry =>
    dsimp only [exec, execNetEntry]
    refine .reading fun _ => ?_
    refine .reading (s := moveCursor 1 s) fun _ => ?_
    exact .goesOn rfl
  | netLinkInfo =>
    dsimp only [exec, execNetLinkInfo]
    refine .reading fun _ => ?_
    exact .finishEntry (s := withEntry _ (moveCursor 1 s))
  | pktSgn sgn =>
    cases sgn with
    | true => exact .reading fun _ => .goesOn rfl
    | false => exact .goesOn rfl
  | pktCrc crc =>
    cases crc with
    | true => exact .reading fun _ => ⟨_, _, rfl, rfl, rfl⟩
    | false => exact ⟨_, _, rfl, rfl, rfl⟩
  | feedFrame =>
    have hbuf : activeBuf { s with streams := others } = activeBuf s := by simp only [activeBuf, hactive]
    refine ⟨handedOver s, _, rfl, rfl, ?_⟩
    simp only [exec, execFeedFrame, hbuf]
    rfl

/-- A FEED in progress shows the decoder the same selector. -/
theorem selector_of_others (hactive : others[s.active]? = s.streams[s.active]?) :
    selector { s with streams := others } = selector s := by
  unfold selector activeBuf
  simp only [hactive]
  rfl

/-- Only the idle block waits for the host. -/
theorem idle_of_waiting (h : fetch s = .waiting) : s.phase = .idle := by
  unfold fetch at h
  split at h
  · exact selector_eq_none.mp ‹_›
  · split at h <;> cases h

theorem step_sameButStreams (hbusy : s.phase ≠ .idle) (hactive : others[s.active]? = s.streams[s.active]?) :
    SameButStreams s others (step s) (step { s with streams := others }) := by
  have hfetch : fetch { s with streams := others } = fetch s := by simp only [fetch, selector_of_others hactive]
  unfold step
  rw [hfetch]
  cases h : fetch s with
  | waiting => exact absurd (idle_of_waiting h) hbusy
  | op i => exact exec_sameButStreams i hactive
  | short why => exact .returns _

end Operations

/-- Settles O57: a step of a FEED in progress is blind to every stream but the active one, and changes that one alone. -/
theorem decodeLearnsNothingOfOtherStreams : Obligations.DecodeLearnsNothingOfOtherStreams := by
  intro s t others hbusy hactive hstep
  obtain ⟨t', f, ht, hstreams, hother⟩ := step_sameButStreams hbusy hactive
  obtain rfl : t' = t := by
    rw [hstep] at ht
    injection ht with ht
    exact ht.symm
  refine ⟨_, hother, ?_, fun j hj => List.getElem?_modify_ne _ _ hj.symm⟩
  rw [hstreams, List.getElem?_modify_eq, List.getElem?_modify_eq, hactive]

end Sys2Proof.Machine
end

section
/-! SUPPORT. The encoding (30_encoding.md): the decoder against the rows of the opcode table, the decoder against the encoder, and the
step that runs what is decoded. -/

namespace Sys2Proof.Machine

/-! ### Encoding and decoding -/

/-- Settles O4, operation by operation: the round trips of Sys2Proof/Laws/PerInstr.lean where there are operands, evaluation of the
row's one word where there are none. -/
theorem decodeOfEncodeIsIdentity : Obligations.DecodeOfEncodeIsIdentity := by
  intro i
  cases i with
  | flagsLen1 b1 => exact Laws.RoundTrip.flagsLen1 b1
  | flagsLen2 b1 b2 => exact Laws.RoundTrip.flagsLen2 b1 b2
  | flagsLen3 b1 b2 b3 => exact Laws.RoundTrip.flagsLen3 b1 b2 b3
  | flagsShort left => exact Laws.RoundTrip.flagsShort left
  | flagsUnterminated b1 b2 b3 => exact Laws.RoundTrip.flagsUnterminated b1 b2 b3
  | dispatchUnsupported apiId => exact Laws.RoundTrip.dispatchUnsupported apiId
  | netBadTag tag => exact Laws.RoundTrip.netBadTag tag
  | netEntry dtn active sizeMode addrSize hops => exact Laws.RoundTrip.netEntry dtn active sizeMode addrSize hops
  | netLinkInfo packetSize speed dlOnly halt => exact Laws.RoundTrip.netLinkInfo packetSize speed dlOnly halt
  | pktSgn sgn => exact Laws.RoundTrip.pktSgn sgn
  | pktCrc crc => exact Laws.RoundTrip.pktCrc crc
  | feedNeedMore last => exact Laws.RoundTrip.feedNeedMore last
  | hdrPid | hdrRoute | hdrRouteAlt | hdrApiNone | hdrApi8 | hdrApi16 | hdrTsNone | hdrTs48 | hdrSize0 | hdrSize32 | hdrSize8
  | hdrSize16 | addrN8 | addrN16 | addrN24 | addrN32 | addrM8_0 | addrM6_2 | addrM4_4 | addrM2_6 | dispatchNet | netAck | netBeacon
  | netReqBeacon | netExtBeacon | pktDecode | feedFrame => exact fun _ => rfl

/-- Settles O59: the decoder reads back, field by field, what the layout writes. -/
theorem decodeOfEncodedFrameIsThePacket : Obligations.DecodeOfEncodedFrameIsThePacket :=
  fun _ _ hwire hcap => decodePacketAt_encodeFrame hwire hcap

/-! ### The decoder gives well-formed operations -/

/-- The chain of terminator bits ends at the byte that the operation says (R73). -/
theorem wellFormed_decodeFlagBytes (left : List Byte) : (decodeFlagBytes left).wellFormed = true := by
  unfold decodeFlagBytes
  split
  · rfl
  split
  · assumption
  rename_i h1
  split
  · simp only [Instr.wellFormed, List.all_cons, eq_false_of_ne_true h1]
    rfl
  split
  · rename_i h2
    simp only [Instr.wellFormed, eq_false_of_ne_true h1, h2]
    rfl
  rename_i h2
  split
  · simp only [Instr.wellFormed, List.all_cons, eq_false_of_ne_true h1, eq_false_of_ne_true h2]
    rfl
  split
  · rename_i h3
    simp only [Instr.wellFormed, eq_false_of_ne_true h1, eq_false_of_ne_true h2, h3]
    rfl
  · rename_i h3
    simp only [Instr.wellFormed, eq_false_of_ne_true h1, eq_false_of_ne_true h2, eq_false_of_ne_true h3]
    rfl

theorem wellFormed_decodeTag (tag : Byte) : (decodeTag tag).wellFormed = true := by
  unfold decodeTag
  split_ifs with h0 h1 h5
  · rfl
  · rfl
  · rfl
  · simp [Instr.wellFormed, knownTag, h0, h1, h5]

theorem wellFormed_decodeAddressForm (e : Byte) : (decodeAddressForm e).wellFormed = true := by
  unfold decodeAddressForm
  repeat' split
  all_goals rfl

theorem wellFormed_decodeApi (f : FlagsWord) : (decodeApi f).wellFormed = true := by
  unfold decodeApi
  repeat' split
  all_goals rfl

theorem wellFormed_decodeSize (f : FlagsWord) : (decodeSize f).wellFormed = true := by
  unfold decodeSize
  split <;> rfl

/-- Settles O5, selector by selector. -/
theorem decodedOperationIsWellFormed : Obligations.DecodedOperationIsWellFormed := by
  intro sel i h
  cases sel with
  | flags left => injection h with h; exact h ▸ wellFormed_decodeFlagBytes left
  | api f => injection h with h; exact h ▸ wellFormed_decodeApi f
  | size f => injection h with h; exact h ▸ wellFormed_decodeSize f
  | address e => injection h with h; exact h ▸ wellFormed_decodeAddressForm e
  | pid | signature | crc | packet => injection h with h; exact h ▸ rfl
  | route | timestamp => injection h with h; subst h; split <;> rfl
  | dispatch a =>
    injection h with h
    subst h
    split
    · rfl
    · exact bne_iff_ne.mpr ‹_›
  | payload n t =>
    simp only [decode] at h
    split at h
    · injection h with h; exact h ▸ rfl
    · cases t with
      | none => cases h
      | some tag => injection h with h; exact h ▸ wellFormed_decodeTag tag
  | entry e =>
    cases e with
    | none => cases h
    | some b => injection h with h; exact h ▸ rfl
  | link l =>
    cases l with
    | none => cases h
    | some b => injection h with h; exact h ▸ rfl
  | last b =>
    injection h with h
    subst h
    split
    · rfl
    · exact bne_iff_ne.mpr ‹_›

/-! ### The rows of the opcode table -/

/-- The mask of a one-bit field of the flags word. -/
def flagMask (n : FlagName) : FlagsWord := BitVec.twoPow 24 n.pos

theorem and_mask (f : FlagsWord) (n : FlagName) : f &&& flagMask n = if flag f n then flagMask n else 0 := BitVec.and_twoPow f n.pos

/-- Two fields masked together. -/
theorem and_mask_or_mask (f : FlagsWord) (m n : FlagName) :
    f &&& (flagMask m ||| flagMask n) = (if flag f m then flagMask m else 0) ||| (if flag f n then flagMask n else 0) := by
  rw [BitVec.and_or_distrib_left, and_mask, and_mask]

theorem decode_route_iff (f : FlagsWord) :
    (decode (.route f) = .op .hdrRoute ↔ f &&& 0x000040#24 = 0x000000#24) ∧
      (decode (.route f) = .op .hdrRouteAlt ↔ f &&& 0x000040#24 = 0x000040#24) := by
  rw [show f &&& 0x000040#24 = _ from and_mask f .routeset, decode]
  cases flag f .routeset <;> decide

theorem decode_api_iff (f : FlagsWord) :
    (decode (.api f) = .op .hdrApiNone ↔ f &&& 0x000004#24 = 0x000000#24) ∧
      (decode (.api f) = .op .hdrApi8 ↔ f &&& 0x004004#24 = 0x000004#24) ∧
      (decode (.api f) = .op .hdrApi16 ↔ f &&& 0x004004#24 = 0x004004#24) := by
  rw [show f &&& 0x000004#24 = _ from and_mask f .api, show f &&& 0x004004#24 = _ from and_mask_or_mask f .api .api16, decode,
    decodeApi]
  cases flag f .api <;> cases flag f .api16 <;> decide

theorem decode_timestamp_iff (f : FlagsWord) :
    (decode (.timestamp f) = .op .hdrTsNone ↔ f &&& 0x001000#24 = 0x000000#24) ∧
      (decode (.timestamp f) = .op .hdrTs48 ↔ f &&& 0x001000#24 = 0x001000#24) := by
  rw [show f &&& 0x001000#24 = _ from and_mask f .time, decode]
  cases flag f .time <;> decide

theorem decode_size_iff (f : FlagsWord) :
    (decode (.size f) = .op .hdrSize0 ↔ f &&& 0x002020#24 = 0x000000#24) ∧
      (decode (.size f) = .op .hdrSize32 ↔ f &&& 0x002020#24 = 0x002000#24) ∧
      (decode (.size f) = .op .hdrSize8 ↔ f &&& 0x002020#24 = 0x000020#24) ∧
      (decode (.size f) = .op .hdrSize16 ↔ f &&& 0x002020#24 = 0x002020#24) := by
  rw [show f &&& 0x002020#24 = _ from and_mask_or_mask f .sizelen0 .sizelen1, decode, decodeSize]
  cases flag f .sizelen0 <;> cases flag f .sizelen1 <;> decide

theorem decode_trailer_iff (f : FlagsWord) :
    (decode (.signature f) = .op (.pktSgn true) ↔ f &&& 0x000100#24 = 0x000100#24) ∧
      (decode (.signature f) = .op (.pktSgn false) ↔ f &&& 0x000100#24 = 0x000000#24) ∧
      (decode (.crc f) = .op (.pktCrc true) ↔ f &&& 0x000200#24 = 0x000200#24) ∧
      (decode (.crc f) = .op (.pktCrc false) ↔ f &&& 0x000200#24 = 0x000000#24) := by
  rw [show f &&& 0x000100#24 = _ from and_mask f .sgn, show f &&& 0x000200#24 = _ from and_mask f .crc, decode, decode]
  cases flag f .sgn <;> cases flag f .crc <;> decide

/-- Bits 5 to 3 of a byte, masked (R89: `E[5:3]`). -/
theorem and_0x38 (e : Byte) : e &&& 0x38#8 =
    (if e.getLsbD 5 then 0x20#8 else 0) ||| ((if e.getLsbD 4 then 0x10#8 else 0) ||| (if e.getLsbD 3 then 0x08#8 else 0)) := by
  have hmask : 0x38#8 = BitVec.twoPow 8 5 ||| (BitVec.twoPow 8 4 ||| BitVec.twoPow 8 3) := rfl
  rw [hmask, BitVec.and_or_distrib_left, BitVec.and_or_distrib_left, BitVec.and_twoPow, BitVec.and_twoPow, BitVec.and_twoPow]
  rfl

theorem extractLsb'_three_two (e : Byte) : e.extractLsb' 3 2 = BitVec.ofBool (e.getLsbD 4) ++ BitVec.ofBool (e.getLsbD 3) := by
  refine BitVec.eq_of_getLsbD_eq fun i hi => ?_
  interval_cases i
  all_goals
    rw [BitVec.getLsbD_extractLsb']
    cases e.getLsbD 4 <;> cases e.getLsbD 3 <;> rfl

theorem decode_address_iff (e : Byte) :
    (decode (.address e) = .op .addrN8 ↔ e &&& 0x38#8 = 0x00#8) ∧
      (decode (.address e) = .op .addrN16 ↔ e &&& 0x38#8 = 0x08#8) ∧
      (decode (.address e) = .op .addrN24 ↔ e &&& 0x38#8 = 0x10#8) ∧
      (decode (.address e) = .op .addrN32 ↔ e &&& 0x38#8 = 0x18#8) ∧
      (decode (.address e) = .op .addrM8_0 ↔ e &&& 0x38#8 = 0x20#8) ∧
      (decode (.address e) = .op .addrM6_2 ↔ e &&& 0x38#8 = 0x28#8) ∧
      (decode (.address e) = .op .addrM4_4 ↔ e &&& 0x38#8 = 0x30#8) ∧
      (decode (.address e) = .op .addrM2_6 ↔ e &&& 0x38#8 = 0x38#8) := by
  rw [and_0x38, decode, decodeAddressForm, extractLsb'_three_two]
  generalize e.getLsbD 5 = mode, e.getLsbD 4 = high, e.getLsbD 3 = low
  revert mode high low
  decide

theorem decode_dispatch_iff (a : BitVec 16) :
    (decode (.dispatch a) = .op .dispatchNet ↔ a = 0#16) ∧
      (decode (.dispatch a) = .op (.dispatchUnsupported a) ↔ a ≠ 0#16) := by
  by_cases ha : a = 0#16 <;> simp [decode, ha]

theorem decode_tag_iff {n : BitVec 32} (t : Byte) (hn : n ≠ 0#32) :
    (decode (.payload n (some t)) = .op .netBeacon ↔ t = 0x00#8) ∧
      (decode (.payload n (some t)) = .op .netReqBeacon ↔ t = 0x01#8) ∧
      (decode (.payload n (some t)) = .op .netExtBeacon ↔ t = 0x05#8) ∧
      (decode (.payload n (some t)) = .op (.netBadTag t) ↔ t ≠ 0x00#8 ∧ t ≠ 0x01#8 ∧ t ≠ 0x05#8) := by
  simp only [decode, if_neg hn, decodeTag]
  split_ifs <;> simp_all

theorem decodeTag_ne_netAck (t : Byte) : decodeTag t ≠ .netAck := by
  unfold decodeTag
  split_ifs <;> nofun

/-- Only `declared_size` 0 is an `Ack` (R171). -/
theorem decode_netAck_iff (n : BitVec 32) (t : Option Byte) : decode (.payload n t) = .op .netAck ↔ n = 0#32 := by
  by_cases hn : n = 0#32
  · simp [decode, hn]
  · cases t with
    | none => simp [decode, hn]
    | some tag => simp [decode, hn, decodeTag_ne_netAck tag]

theorem decode_last_iff (b : Option Byte) :
    (decode (.last b) = .op .feedFrame ↔ b = some 0xC0#8) ∧
      (decode (.last b) = .op (.feedNeedMore b) ↔ b ≠ some 0xC0#8) := by
  by_cases hb : b = some 0xC0#8 <;> simp [decode, Config.sentinel, hb]

/-- Settles O6, row family by row family. -/
theorem selectorsFollowOpcodeTable : Obligations.SelectorsFollowOpcodeTable :=
  ⟨fun _ => rfl, decode_route_iff, decode_api_iff, decode_timestamp_iff, decode_size_iff, decode_trailer_iff, decode_address_iff,
    decode_dispatch_iff, decode_netAck_iff, fun _ t hn => decode_tag_iff t hn, decode_last_iff⟩

/-- Settles O8, word by word. -/
theorem writtenWordsDecode : Obligations.WrittenWordsDecode :=
  ⟨rfl, rfl, rfl, rfl, rfl, rfl, rfl, rfl, rfl, rfl, rfl⟩

/-! ### The flags chain -/

section Chain

variable {b1 b2 b3 : Byte} (more : List Byte)

theorem decodeFlagBytes_len1 (h1 : terminated b1 = true) : decodeFlagBytes (b1 :: more) = .flagsLen1 b1 := by
  simp only [decodeFlagBytes, h1, if_true]

theorem decodeFlagBytes_len2 (h1 : terminated b1 = false) (h2 : terminated b2 = true) :
    decodeFlagBytes (b1 :: b2 :: more) = .flagsLen2 b1 b2 := by
  simp only [decodeFlagBytes, h1, h2, Bool.false_eq_true, if_false, if_true]

theorem decodeFlagBytes_len3 (h1 : terminated b1 = false) (h2 : terminated b2 = false) (h3 : terminated b3 = true) :
    decodeFlagBytes (b1 :: b2 :: b3 :: more) = .flagsLen3 b1 b2 b3 := by
  simp only [decodeFlagBytes, h1, h2, h3, Bool.false_eq_true, if_false, if_true]

theorem decodeFlagBytes_unterminated (h1 : terminated b1 = false) (h2 : terminated b2 = false) (h3 : terminated b3 = false) :
    decodeFlagBytes (b1 :: b2 :: b3 :: more) = .flagsUnterminated b1 b2 b3 := by
  simp only [decodeFlagBytes, h1, h2, h3, Bool.false_eq_true, if_false]

end Chain

/-- A chain that the end of the frame cuts short (R104). -/
theorem decodeFlagBytes_short {left : List Byte} (hlen : left.length < 3) (hleft : ∀ b ∈ left, terminated b = false) :
    decodeFlagBytes left = .flagsShort left := by
  have hwf : (Instr.flagsShort left).wellFormed = true := by
    simpa [Instr.wellFormed, Config.flagsMaxBytes, hlen] using hleft
  exact Decoded.op.inj (Laws.RoundTrip.flagsShort left hwf)

/-- The chain is at most three bytes long: later bytes are not looked at (R73). -/
theorem decodeFlagBytes_take (left : List Byte) : decodeFlagBytes (left.take Config.flagsMaxBytes) = decodeFlagBytes left := by
  match left with
  | [] | [_] | [_, _] | _ :: _ :: _ :: _ => rfl

/-- Settles O7, by the length of the chain. -/
theorem flagsLengthByTerminatorBits : Obligations.FlagsLengthByTerminatorBits :=
  ⟨fun _ more h1 => congrArg _ (decodeFlagBytes_len1 more h1),
    fun _ _ more h1 h2 => congrArg _ (decodeFlagBytes_len2 more h1 h2),
    fun _ _ _ more h1 h2 h3 => congrArg _ (decodeFlagBytes_len3 more h1 h2 h3),
    fun _ _ _ more h1 h2 h3 => congrArg _ (decodeFlagBytes_unterminated more h1 h2 h3),
    fun _ hlen hleft => congrArg _ (decodeFlagBytes_short hlen hleft),
    fun _ _ _ _ _ => ⟨rfl, rfl⟩⟩

/-- The flags word is its three bytes, the first one lowest (R74). -/
theorem packFlags_eq_append (b1 b2 b3 : Byte) : packFlags b1 b2 b3 = b3 ++ b2 ++ b1 := by
  refine BitVec.eq_of_getLsbD_eq fun i _ => ?_
  rw [getLsbD_packFlags, BitVec.getLsbD_append, BitVec.getLsbD_append, Nat.sub_sub]
  split
  · rfl
  · simp only [show i - 8 < 8 ↔ i < 16 by omega]

section Step

variable {s : State}

theorem takeFlags_of_available {n : Nat} {f : FlagsWord} (h : available s n) :
    takeFlags n f s = .next { s with
      cur := s.cur + n, fields := { s.fields with flags := f, flen := BitVec.ofNat 2 n }, phase := .pid } :=
  if_pos h

theorem exec_flagsLen1 {b1 : Byte} (h : available s 1) :
    exec (.flagsLen1 b1) s = .next { s with
      cur := s.cur + 1, fields := { s.fields with flags := 0x0000#16 ++ b1, flen := 1#2 }, phase := .pid } := by
  rw [exec, execFlagsLen1, packFlags_eq_append]
  exact takeFlags_of_available h

theorem exec_flagsLen2 {b1 b2 : Byte} (h : available s 2) :
    exec (.flagsLen2 b1 b2) s = .next { s with
      cur := s.cur + 2, fields := { s.fields with flags := 0x00#8 ++ b2 ++ b1, flen := 2#2 }, phase := .pid } := by
  rw [exec, execFlagsLen2, packFlags_eq_append]
  exact takeFlags_of_available h

theorem exec_flagsLen3 {b1 b2 b3 : Byte} (h : available s 3) :
    exec (.flagsLen3 b1 b2 b3) s = .next { s with
      cur := s.cur + 3, fields := { s.fields with flags := b3 ++ b2 ++ b1, flen := 3#2 }, phase := .pid } := by
  rw [exec, execFlagsLen3, packFlags_eq_append]
  exact takeFlags_of_available h

theorem step_flags_ahead (hp : s.phase = .flags) : step s = exec (decodeFlagBytes (s.frm.drop s.cur)) s := by
  rw [step_flags hp, decodeFlagBytes_take]

/-- The bytes ahead of the cursor, the first one by name. -/
theorem drop_cur_eq_byteAt_cons {i : Nat} (h : available s (i + 1)) :
    s.frm.drop (s.cur + i) = byteAt s i :: s.frm.drop (s.cur + (i + 1)) :=
  drop_eq_getD_cons h

theorem forall_mem_drop_cur {P : Byte → Prop} {n : Nat} (hend : s.frm.length ≤ s.cur + n) (h : ∀ j < n, P (byteAt s j)) :
    ∀ b ∈ s.frm.drop s.cur, P b := by
  intro b hb
  obtain ⟨j, hj, rfl⟩ := List.mem_iff_getElem.mp hb
  rw [List.length_drop] at hj
  have hbyte : byteAt s j = (s.frm.drop s.cur)[j] := by
    rw [List.getElem_drop]
    exact List.getD_eq_getElem _ _ (by omega)
  exact hbyte ▸ h j (by omega)

end Step

/-- Settles O12: the step runs the operation that the bytes at the cursor decode to. -/
theorem flagsStepFollowsTerminatorChain : Obligations.FlagsStepFollowsTerminatorChain := by
  intro s hp
  have hdrop1 (h : available s 1) : s.frm.drop s.cur = byteAt s 0 :: s.frm.drop (s.cur + 1) := drop_cur_eq_byteAt_cons h
  have hdrop2 (h : available s 2) : s.frm.drop s.cur = byteAt s 0 :: byteAt s 1 :: s.frm.drop (s.cur + 2) := by
    rw [hdrop1 (by omega), drop_cur_eq_byteAt_cons h]
  have hdrop3 (h : available s 3) :
      s.frm.drop s.cur = byteAt s 0 :: byteAt s 1 :: byteAt s 2 :: s.frm.drop (s.cur + 3) := by
    rw [hdrop2 (by omega), drop_cur_eq_byteAt_cons h]
  rw [step_flags_ahead hp]
  refine ⟨fun h h1 => ?_, fun h h1 h2 => ?_, fun h h1 h2 h3 => ?_, fun h h1 h2 h3 => ?_, fun n hn hend hbytes => ?_⟩
  · rw [hdrop1 h, decodeFlagBytes_len1 _ h1]
    exact exec_flagsLen1 h
  · rw [hdrop2 h, decodeFlagBytes_len2 _ h1 h2]
    exact exec_flagsLen2 h
  · rw [hdrop3 h, decodeFlagBytes_len3 _ h1 h2 h3]
    exact exec_flagsLen3 h
  · rw [hdrop3 h, decodeFlagBytes_unterminated _ h1 h2 h3]
    rfl
  · have hlen : (s.frm.drop s.cur).length < 3 := by
      rw [List.length_drop]
      omega
    rw [decodeFlagBytes_short hlen (forall_mem_drop_cur hend hbytes)]
    rfl

/-! ### The width of an entry -/

theorem bind_eq_ok {α β : Type} {x : Decode α} {f : α → Decode β} {b : β} :
    (x >>= f) = .ok b ↔ ∃ a, x = .ok a ∧ f a = .ok b := by
  cases x with
  | error e => simp [bind, Except.bind]
  | ok a => simp [ok_bind]

/-- A read that succeeds stays inside the frame and moves the cursor by its width (R10). -/
theorem cursor_of_rd {frm : Memory} {n cur cur' v : Nat} (h : rd frm n cur = .ok (v, cur')) :
    cur' = cur + n ∧ cur' ≤ frm.length := by
  unfold rd at h
  split at h
  · rename_i hread
    injection h with h
    injection h with _ h
    exact ⟨h.symm, h ▸ (memRead_eq_some.mp hread).1⟩
  · cases h

/-- The width of an address depends on its form alone (R159). -/
theorem cursor_of_decodeAddress {frm : Memory} {cur cur' : Nat} {sizeMode : Bool} {addrSize : BitVec 2} {a : BitVec 32}
    {q : BitVec 8} (h : decodeAddress frm cur sizeMode addrSize = .ok (a, q, cur')) :
    cur' = cur + (if sizeMode then 1 else addrSize.toNat + 2) ∧ cur' ≤ frm.length := by
  unfold decodeAddress at h
  cases sizeMode with
  | true =>
    obtain ⟨⟨m, c1⟩, hm, h⟩ := bind_eq_ok.mp h
    obtain ⟨hc1, hle⟩ := cursor_of_rd hm
    injection h with h
    obtain ⟨-, h⟩ := Prod.mk.inj h
    obtain ⟨-, rfl⟩ := Prod.mk.inj h
    exact ⟨hc1, hle⟩
  | false =>
    obtain ⟨⟨m, c1⟩, hm, h⟩ := bind_eq_ok.mp h
    obtain ⟨⟨q', c2⟩, hq, h⟩ := bind_eq_ok.mp h
    obtain ⟨hc1, -⟩ := cursor_of_rd hm
    obtain ⟨hc2, hle⟩ := cursor_of_rd hq
    injection h with h
    obtain ⟨-, h⟩ := Prod.mk.inj h
    obtain ⟨-, rfl⟩ := Prod.mk.inj h
    exact ⟨by simp only [Bool.false_eq_true, if_false]; omega, hle⟩

/-- Settles O34: the reads of an entry, one after the other, with the widths that its flags pick. -/
theorem entryWidthIsFixedByItsFlags : Obligations.EntryWidthIsFixedByItsFlags := by
  intro frm cur cur' ext e h
  unfold decodeEntry at h
  obtain ⟨⟨b, c1⟩, hb, h⟩ := bind_eq_ok.mp h
  obtain ⟨⟨age, c2⟩, hage, h⟩ := bind_eq_ok.mp h
  obtain ⟨⟨a, q, c3⟩, ha, h⟩ := bind_eq_ok.mp h
  obtain ⟨hc1, -⟩ := cursor_of_rd hb
  obtain ⟨hc2, -⟩ := cursor_of_rd hage
  obtain ⟨hc3, hle3⟩ := cursor_of_decodeAddress ha
  cases ext with
  | false =>
    injection h with h
    obtain ⟨rfl, rfl⟩ := Prod.mk.inj h
    refine ⟨?_, hle3, rfl⟩
    simp only [Bool.false_eq_true, if_false] at hc3 ⊢
    omega
  | true =>
    obtain ⟨⟨l, c4⟩, hl, h⟩ := bind_eq_ok.mp h
    obtain ⟨hc4, hle4⟩ := cursor_of_rd hl
    injection h with h
    obtain ⟨rfl, rfl⟩ := Prod.mk.inj h
    refine ⟨?_, hle4, rfl⟩
    simp only [if_true] at hc3 ⊢
    omega

/-! ### A step runs what is decoded -/

section Fetch

variable {s : State} {sel : Selector}

theorem step_of_decode_op {i : Instr} (hsel : selector s = some sel) (hdec : decode sel = .op i) : step s = exec i s := by
  simp only [step, fetch, hsel, hdec]

theorem step_of_decode_short {why : SelectorFault} (hsel : selector s = some sel) (hdec : decode sel = .short why) :
    step s = raiseError .insufficientData s := by
  simp only [step, fetch, hsel, hdec]

theorem step_of_no_selector (hsel : selector s = none) : step s = takeInput s := by
  simp only [step, fetch, hsel]

end Fetch

/-- Settles O9. -/
theorem stepRunsDecodedOperation : Obligations.StepRunsDecodedOperation :=
  ⟨fun _ _ _ => step_of_decode_op, fun _ _ _ => step_of_decode_short, fun _ => step_of_no_selector⟩

/-- The registers that a flag byte gives an entry pick the address form that the byte picks (R80, R150). -/
theorem decodeAddressForm_entryOfFlagByte (e : Byte) :
    decodeAddressForm (entryFlagByte (entryOfFlagByte e)) = decodeAddressForm e := by
  obtain ⟨-, -, hmode, hsize, -⟩ := Instr.netEntry.inj (decodeEntryByte_entryFlagByte (entryOfFlagByte e))
  simp only [decodeAddressForm, hmode, hsize]
  rfl

/-- The state in which a selector is placed shows a selector that decodes alike. -/
theorem decode_selector_place (sel : Selector) {s : State} (hactive : s.active < s.streams.length) :
    ∃ sel', selector (place sel s) = some sel' ∧ decode sel' = decode sel := by
  cases sel with
  | flags left =>
    refine ⟨.flags (left.take Config.flagsMaxBytes), ?_, congrArg Decoded.op (decodeFlagBytes_take left)⟩
    by_cases hlen : left.length < Config.flagsMaxBytes
    · simp [place, hlen, selector]
    · simp [place, hlen, selector, List.take_append_of_le_length (Nat.le_of_not_lt hlen)]
  | payload declared tag => cases tag <;> exact ⟨_, rfl, rfl⟩
  | entry e => cases e <;> exact ⟨_, rfl, rfl⟩
  | link l => cases l <;> exact ⟨_, rfl, rfl⟩
  | address e => exact ⟨_, rfl, congrArg Decoded.op (decodeAddressForm_entryOfFlagByte e)⟩
  | last b =>
    have hbuf : activeBuf (place (.last b) s) = b.toList := by
      simp [activeBuf, place, List.getElem?_eq_getElem hactive]
    refine ⟨_, rfl, ?_⟩
    rw [hbuf]
    cases b <;> rfl
  | pid | route | api | timestamp | size | signature | crc | dispatch | packet => exact ⟨_, rfl, rfl⟩

/-- A table word is decoded through its selector (log 9). -/
theorem decodeTableWord_eq_some {nbits w : Nat} {i : Instr} (h : decodeTableWord nbits w = some i) :
    ∃ sel, tableSelector nbits w = some sel ∧ decode sel = .op i := by
  unfold decodeTableWord at h
  split at h
  · cases h
  rename_i sel htable
  split at h
  · rename_i i' hdec
    obtain rfl : i' = i := Option.some.inj h
    exact ⟨sel, htable, hdec⟩
  · cases h

/-- Settles O10: the word's selector is placed where the next step looks. -/
theorem tableWordRunsNext : Obligations.TableWordRunsNext := by
  intro s nbits w i hactive hword
  obtain ⟨sel, htable, hdec⟩ := decodeTableWord_eq_some hword
  obtain ⟨sel', hsel, hsame⟩ := decode_selector_place sel hactive
  have hplace : s.withFetchWord nbits w = place sel s := by simp only [State.withFetchWord, htable]
  rw [hplace]
  exact step_of_decode_op hsel (hsame.trans hdec)

end Sys2Proof.Machine
end

section
/-! SUPPORT. The flags operations (40_header_flags.md), with enough bytes left and with too few. -/

namespace Sys2Proof.Machine

/-- With too few bytes left the header is malformed, which is not `InsufficientData` (R25, R104, log 16). -/
theorem takeFlags_of_not_available {n : Nat} {f : FlagsWord} {s : State} (h : ¬ available s n) :
    takeFlags n f s = .next (respond (.decodeError .malformedHeader) s) :=
  if_neg h

/-- Settles O11: each of the three operations is `takeFlags` on its packed bytes, which splits on the bytes left. -/
theorem flagsOperationsWriteFlagsWord : Obligations.FlagsOperationsWriteFlagsWord := by
  intro s b1 b2 b3
  refine ⟨exec_flagsLen1, exec_flagsLen2, exec_flagsLen3, fun h => ?_, fun h => ?_, fun h => ?_⟩
  · rw [exec, execFlagsLen1, takeFlags_of_not_available h]
  · rw [exec, execFlagsLen2, takeFlags_of_not_available h]
  · rw [exec, execFlagsLen3, takeFlags_of_not_available h]

end Sys2Proof.Machine
end

section
/-! SUPPORT. The header fields (41_header_fields.md): a cursor read by the names of its bytes, the operations with enough bytes left and
with too few, the flags that pick them, and the offsets of a whole header (R72). -/

namespace Sys2Proof.Machine

/-! ### A cursor read by the names of its bytes -/

section Reads

variable {s : State} {go : Nat → State → Result}

/-- One byte ahead of the cursor. -/
theorem leNat_ahead_one {i : Nat} (h : available s (i + 1)) :
    leNat ((s.frm.drop (s.cur + i)).take 1) = (byteAt s i).toNat :=
  leNat_take_one h

/-- The byte in front of a run is the lowest byte of its little-endian value (R52). -/
theorem leNat_ahead_append {w i n : Nat} {x : BitVec w} (h : available s (i + 1))
    (hx : leNat ((s.frm.drop (s.cur + (i + 1))).take n) = x.toNat) :
    leNat ((s.frm.drop (s.cur + i)).take (n + 1)) = (x ++ byteAt s i).toNat := by
  rw [leNat_take_succ (a := s.cur + i) h, toNat_append_byte, ← hx]
  rfl

/-- A read whose little-endian value is `x`. -/
theorem reading_of_value {w n : Nat} {x : BitVec w} (h : available s n) (hx : leNat ((s.frm.drop s.cur).take n) = x.toNat) :
    reading n s go = go x.toNat (moveCursor n s) := by
  rw [reading_of_le h, hx]

theorem reading_one (h : available s 1) : reading 1 s go = go (byteAt s 0).toNat (moveCursor 1 s) :=
  reading_of_value h (leNat_ahead_one h)

theorem reading_two (h : available s 2) :
    reading 2 s go = go (byteAt s 1 ++ byteAt s 0).toNat (moveCursor 2 s) :=
  reading_of_value h (leNat_ahead_append (i := 0) (by omega) (leNat_ahead_one h))

theorem reading_four (h : available s 4) :
    reading 4 s go = go (byteAt s 3 ++ byteAt s 2 ++ byteAt s 1 ++ byteAt s 0).toNat (moveCursor 4 s) :=
  reading_of_value h <| leNat_ahead_append (i := 0) (by omega) <| leNat_ahead_append (by omega) <|
    leNat_ahead_append (by omega) <| leNat_ahead_one h

theorem reading_six (h : available s 6) :
    reading 6 s go =
      go (byteAt s 5 ++ byteAt s 4 ++ byteAt s 3 ++ byteAt s 2 ++ byteAt s 1 ++ byteAt s 0).toNat (moveCursor 6 s) :=
  reading_of_value h <| leNat_ahead_append (i := 0) (by omega) <| leNat_ahead_append (by omega) <|
    leNat_ahead_append (by omega) <| leNat_ahead_append (by omega) <| leNat_ahead_append (by omega) <| leNat_ahead_one h

theorem reading_of_not_available {n : Nat} (h : ¬ available s n) :
    reading n s go = .next (respond (.decodeError .insufficientData) s) :=
  reading_of_lt (Nat.lt_of_not_le h)

/-- A read after which the bytes run out ends like one that finds too few bytes: nothing of it is kept (R136, R254). -/
theorem reading_of_rest_short {n : Nat}
    (h : ∀ v, go v (moveCursor n s) = .next (respond (.decodeError .insufficientData) s)) :
    reading n s go = .next (respond (.decodeError .insufficientData) s) := by
  by_cases hle : available s n
  · rw [reading_of_le hle, h]
  · exact reading_of_not_available hle

theorem byteAt_moveCursor (n i : Nat) : byteAt (moveCursor n s) i = byteAt s (n + i) := by
  simp only [byteAt, moveCursor_frm, moveCursor_cur, Nat.add_assoc]

end Reads

/-! ### What the fields are written with -/

section Writes

variable {s : State} {w : Nat} (x : BitVec w) (n : Nat)

theorem setApiId_moveCursor : setApiId x.toNat (moveCursor n s) = .next { s with
    cur := s.cur + n, fields := { s.fields with apiId := x.setWidth 16 }, phase := .timestamp } := by
  rw [setApiId, BitVec.ofNat_toNat]
  rfl

theorem setTimestamp_moveCursor : setTimestamp x.toNat (moveCursor n s) = .next { s with
    cur := s.cur + n, fields := { s.fields with timestamp := x.setWidth 64 }, phase := .size } := by
  rw [setTimestamp, BitVec.ofNat_toNat]
  rfl

theorem setPayloadSize_moveCursor : setPayloadSize x.toNat (moveCursor n s) = .next { s with
    cur := s.cur + n, fields := { s.fields with payloadSize := x.setWidth 32 }, phase := .dispatch } := by
  rw [setPayloadSize, BitVec.ofNat_toNat]
  rfl

end Writes

/-! ### The operations that the flags pick -/

section Selection

variable {s : State} {f : FlagsWord}

theorem step_route_of_standard (hp : s.phase = .route) (h : flag s.fields.flags .routeset = false) :
    step s = exec .hdrRoute s :=
  (step_route hp).trans (if_neg (ne_true_of_eq_false h))

theorem step_api_op (hp : s.phase = .api) : step s = exec (decodeApi s.fields.flags) s :=
  step_of_decode_op (sel := .api s.fields.flags) (by simp only [selector, hp]) rfl

theorem step_timestamp_op (hp : s.phase = .timestamp) :
    step s = exec (if flag s.fields.flags .time then .hdrTs48 else .hdrTsNone) s :=
  step_of_decode_op (sel := .timestamp s.fields.flags) (by simp only [selector, hp]) rfl

theorem step_size_op (hp : s.phase = .size) : step s = exec (decodeSize s.fields.flags) s :=
  step_of_decode_op (sel := .size s.fields.flags) (by simp only [selector, hp]) rfl

theorem decodeApi_of_absent (h : flag f .api = false) : decodeApi f = .hdrApiNone := by
  simp only [decodeApi, h, Bool.false_eq_true, if_false]

theorem decodeApi_of_present (h : flag f .api = true) :
    decodeApi f = if flag f .api16 then .hdrApi16 else .hdrApi8 :=
  if_pos h

end Selection

/-! ### The operations -/

/-- Settles O14: one read of two bytes, and a stage that looks at no flag. -/
theorem pidReadUnconditionally : Obligations.PidReadUnconditionally := by
  intro s
  refine ⟨fun h => ?_, fun h => ?_, step_pid⟩
  · rw [exec, execHdrPid, reading_two h, BitVec.ofNat_toNat, BitVec.setWidth_eq]
    rfl
  · rw [exec, execHdrPid, reading_of_not_available h]

/-- Settles O15: four reads of one byte each; wherever the bytes run out, no part of the route is kept. -/
theorem routeReadAsFourBytes : Obligations.RouteReadAsFourBytes := by
  intro s
  refine ⟨fun h => ?_, fun h => ?_, step_route_of_standard⟩
  · have ahead (k : Nat) (hk : k + 1 ≤ 4) : available (moveCursor k s) 1 := by
      simp only [available, moveCursor_cur, moveCursor_frm]
      omega
    rw [exec, execHdrRoute, reading_one (by omega), reading_one (ahead 1 (by omega)), moveCursor_moveCursor,
      reading_one (ahead 2 (by omega)), moveCursor_moveCursor, reading_one (ahead 3 (by omega)), moveCursor_moveCursor]
    simp only [byteAt_moveCursor, BitVec.ofNat_toNat]
    rfl
  · rw [exec, execHdrRoute]
    refine reading_of_rest_short fun a => reading_of_rest_short fun b => reading_of_rest_short fun c => ?_
    exact reading_of_not_available h

/-- Settles O16: the route stage tests `routeset` alone, before any route byte. -/
theorem alternateRouteIsUnsupported : Obligations.AlternateRouteIsUnsupported :=
  fun _ => ⟨rfl, fun hp halt => (step_route hp).trans (if_pos halt), step_route_of_standard⟩

/-- Settles O17: the absent form, the two reads, and the choice by `api` and then `api16`. -/
theorem apiIdByWidth : Obligations.ApiIdByWidth := by
  intro s
  refine ⟨rfl, fun h => ?_, fun h => ?_, reading_of_not_available, reading_of_not_available, fun hp habsent => ?_,
    fun hp hpresent h8 => ?_, fun hp hpresent h16 => ?_⟩
  · rw [exec, execHdrApi8, reading_one h, setApiId_moveCursor]
  · rw [exec, execHdrApi16, reading_two h, setApiId_moveCursor, BitVec.setWidth_eq]
  · rw [step_api_op hp, decodeApi_of_absent habsent]
  · rw [step_api_op hp, (decodeApi_of_present hpresent).trans (if_neg (ne_true_of_eq_false h8))]
  · rw [step_api_op hp, (decodeApi_of_present hpresent).trans (if_pos h16)]

/-- Settles O18: the absent form, the read of six bytes, and the choice by `time`. -/
theorem timestampByTimeFlag : Obligations.TimestampByTimeFlag := by
  intro s
  refine ⟨rfl, fun h => ?_, reading_of_not_available, fun hp habsent => ?_, fun hp hpresent => ?_⟩
  · rw [exec, execHdrTs48, reading_six h, setTimestamp_moveCursor]
  · exact (step_timestamp_op hp).trans (congrArg (exec · s) (if_neg (ne_true_of_eq_false habsent)))
  · exact (step_timestamp_op hp).trans (congrArg (exec · s) (if_pos hpresent))

/-- Settles O19: the absent form, the three reads, and the choice by `sizelen0` and `sizelen1` (R77). -/
theorem payloadSizeBySelector : Obligations.PayloadSizeBySelector := by
  intro s
  refine ⟨rfl, fun h => ?_, fun h => ?_, fun h => ?_, reading_of_not_available, reading_of_not_available,
    reading_of_not_available, fun hp h0 h1 => ?_, fun hp h0 h1 => ?_, fun hp h0 h1 => ?_, fun hp h0 h1 => ?_⟩
  · rw [exec, execHdrSize32, reading_four h, setPayloadSize_moveCursor, BitVec.setWidth_eq]
  · rw [exec, execHdrSize8, reading_one h, setPayloadSize_moveCursor]
  · rw [exec, execHdrSize16, reading_two h, setPayloadSize_moveCursor]
  all_goals simp only [step_size_op hp, decodeSize, flag, FlagName.pos, h0, h1]

/-! ### The widths of the fields -/

theorem apiWidth_le (f : FlagsWord) : apiWidth f ≤ 2 := by
  unfold apiWidth
  split_ifs <;> omega

theorem sizeWidth_le (f : FlagsWord) : sizeWidth f ≤ 4 := by
  unfold sizeWidth
  generalize flag f .sizelen0 = b0, flag f .sizelen1 = b1
  revert b0 b1
  decide

/-- A value of `n` bytes keeps its value in a register of `n` bytes or more. -/
theorem toNat_ofNat_of_bytes {w n v : Nat} (hv : v < 256 ^ n) (hw : 8 * n ≤ w) : (BitVec.ofNat w v).toNat = v := by
  rw [BitVec.toNat_ofNat]
  refine Nat.mod_eq_of_lt (hv.trans_le ?_)
  rw [show 256 = 2 ^ 8 from rfl, ← pow_mul]
  exact Nat.pow_le_pow_right (by omega) hw

/-- Settles O20: the size stage reads the number back where it was written, and its width fits the register. -/
theorem payloadSizeRoundTrip : Obligations.PayloadSizeRoundTrip := by
  intro s front back v hp hcur hfrm hv
  have hread : memRead s.frm s.cur (sizeWidth s.fields.flags) = some v := by
    rw [hfrm, hcur, memRead_leBytes, Nat.mod_eq_of_lt hv]
  have hle : s.cur ≤ s.frm.length := (Nat.le_add_right _ _).trans (memRead_eq_some.mp hread).1
  have hstep : step s = setPayloadSize v (moveCursor (sizeWidth s.fields.flags) s) := by
    rw [step_size hp hle, reading, hread]
  have hwidth := sizeWidth_le s.fields.flags
  exact ⟨_, hstep, toNat_ofNat_of_bytes hv (by omega), rfl⟩

/-! ### The offsets of a whole header (R72) -/

/-- A register written with what a read gives holds the little-endian value of the bytes read. -/
theorem toNat_ofNat_of_rd {frm : Memory} {w n cur cur' v : Nat} (h : rd frm n cur = .ok (v, cur')) (hw : 8 * n ≤ w) :
    (BitVec.ofNat w v).toNat = leNat ((frm.drop cur).take n) := by
  unfold rd at h
  split at h
  · rename_i hread
    injection h with h
    obtain ⟨rfl, -⟩ := Prod.mk.inj h
    rw [toNat_ofNat_of_bytes (memRead_lt hread) hw]
    exact (memRead_eq_some.mp hread).2
  · cases h

/-- The flags word is the little-endian value of its three bytes (R74). -/
theorem toNat_packFlags (b1 b2 b3 : Byte) : (packFlags b1 b2 b3).toNat = leNat [b1, b2, b3] := by
  rw [packFlags_eq_append, toNat_append_byte, toNat_append_byte]
  simp only [leNat_cons, leNat_nil, Nat.mul_zero, Nat.add_zero]

theorem Ahead.drop_eq {frm : Memory} {cur : Nat} {bytes : List Byte} (h : Ahead frm cur bytes) : frm.drop cur = bytes := by
  obtain ⟨front, rfl, rfl⟩ := h
  exact List.drop_left' rfl

theorem Ahead.of_getElem? {frm : Memory} {cur : Nat} {b : Byte} (h : frm[cur]? = some b) :
    Ahead frm cur (b :: frm.drop (cur + 1)) := by
  obtain ⟨hlt, rfl⟩ := List.getElem?_eq_some_iff.mp h
  refine ⟨frm.take cur, List.length_take_of_le hlt.le, ?_⟩
  rw [← List.drop_eq_getElem_cons hlt, List.take_append_drop]

/-- The flags loop that succeeds has read some bytes without a terminator and then one with it (R100). -/
theorem flagsLoop_eq_ok {frm : Memory} {left : Nat} {got : List Byte} {cur cur' : Nat} {f : FlagsWord} {flen : BitVec 2}
    (h : flagsLoop frm left got cur = .ok (f, flen, cur')) :
    ∃ chain b rest, Ahead frm cur (chain ++ b :: rest) ∧ (∀ c ∈ chain, terminated c = false) ∧ terminated b = true ∧
      chain.length < left ∧ cur' = cur + (chain.length + 1) ∧ flen = BitVec.ofNat 2 (got ++ (chain ++ [b])).length ∧
      f = packFlags ((got ++ (chain ++ [b])).getD 0 0) ((got ++ (chain ++ [b])).getD 1 0)
        ((got ++ (chain ++ [b])).getD 2 0) := by
  induction left generalizing got cur with
  | zero => cases h
  | succ left ih =>
    unfold flagsLoop at h
    split at h
    · cases h
    rename_i b hb
    have hahead := Ahead.of_getElem? hb
    cases hterm : terminated b with
    | true =>
      simp only [hterm, if_true] at h
      injection h with h
      obtain ⟨hf, h⟩ := Prod.mk.inj h
      obtain ⟨hflen, hcur⟩ := Prod.mk.inj h
      exact ⟨[], b, _, hahead, nofun, hterm, Nat.succ_pos left, hcur.symm, hflen.symm, hf.symm⟩
    | false =>
      simp only [hterm, Bool.false_eq_true, if_false] at h
      obtain ⟨chain, b', rest, hrest, hchain, hb', hlen, hcur, hflen, hf⟩ := ih h
      rw [hrest.drop_eq] at hahead
      rw [List.append_assoc, List.singleton_append] at hflen hf
      refine ⟨b :: chain, b', rest, hahead, List.forall_mem_cons.mpr ⟨hterm, hchain⟩, hb', Nat.succ_lt_succ hlen, ?_,
        hflen, hf⟩
      rw [hcur, List.length_cons]
      omega

/-- What `DecodeFlags` answers: the length that the terminator bits tell, and the little-endian value of as many bytes. -/
theorem decodeFlags_eq_ok {frm : Memory} {cur cur' : Nat} {f : FlagsWord} {flen : BitVec 2}
    (h : decodeFlags frm cur = .ok (f, flen, cur')) :
    cur' = cur + flen.toNat ∧ 1 ≤ flen.toNat ∧ flagsOnWire f flen = true ∧ f.toNat = leNat ((frm.drop cur).take flen.toNat) := by
  obtain ⟨chain, b, rest, hahead, hchain, hb, hlen, rfl, rfl, rfl⟩ := flagsLoop_eq_ok h
  rw [hahead.drop_eq]
  match chain, hlen with
  | [], _ => exact ⟨rfl, by simp, flagsOnWire_len1 hb, toNat_packFlags b 0 0⟩
  | [b1], _ =>
    obtain ⟨h1, -⟩ := List.forall_mem_cons.mp hchain
    exact ⟨rfl, by simp, flagsOnWire_len2 h1 hb, toNat_packFlags b1 b 0⟩
  | [b1, b2], _ =>
    obtain ⟨h1, h2⟩ := List.forall_mem_cons.mp hchain
    exact ⟨rfl, by simp, flagsOnWire_len3 h1 (h2 b2 List.mem_cons_self) hb, toNat_packFlags b1 b2 b⟩

/-- Settles O21: each read starts where the one before it ended, so its cursor is the field's offset, and each register is wide enough
for its field. -/
theorem headerEndsAtPayloadOffset : Obligations.HeaderEndsAtPayloadOffset := by
  intro frm cur cur' h hdec
  unfold decodeHeader at hdec
  obtain ⟨⟨f, flen, c1⟩, hflags, hdec⟩ := bind_eq_ok.mp hdec
  obtain ⟨⟨pid, c2⟩, hpid, hdec⟩ := bind_eq_ok.mp hdec
  dsimp only at hdec
  split at hdec
  · cases hdec
  obtain ⟨⟨a, c3⟩, ha, hdec⟩ := bind_eq_ok.mp hdec
  obtain ⟨⟨b, c4⟩, hb, hdec⟩ := bind_eq_ok.mp hdec
  obtain ⟨⟨c, c5⟩, hc, hdec⟩ := bind_eq_ok.mp hdec
  obtain ⟨⟨d, c6⟩, hd, hdec⟩ := bind_eq_ok.mp hdec
  obtain ⟨⟨apiId, c7⟩, hapi, hdec⟩ := bind_eq_ok.mp hdec
  obtain ⟨⟨timestamp, c8⟩, htime, hdec⟩ := bind_eq_ok.mp hdec
  obtain ⟨⟨size, c9⟩, hsize, hdec⟩ := bind_eq_ok.mp hdec
  injection hdec with hdec
  obtain ⟨rfl, rfl⟩ := Prod.mk.inj hdec
  obtain ⟨rfl, hlen, hwire, hvalue⟩ := decodeFlags_eq_ok hflags
  obtain ⟨rfl, -⟩ := cursor_of_rd hpid
  obtain ⟨rfl, -⟩ := cursor_of_rd ha
  obtain ⟨rfl, -⟩ := cursor_of_rd hb
  obtain ⟨rfl, -⟩ := cursor_of_rd hc
  obtain ⟨rfl, -⟩ := cursor_of_rd hd
  obtain ⟨rfl, -⟩ := cursor_of_rd hapi
  obtain ⟨rfl, -⟩ := cursor_of_rd htime
  obtain ⟨rfl, hend⟩ := cursor_of_rd hsize
  have hapiWidth := apiWidth_le f
  have htimeWidth := timestampWidth_le f
  have hsizeWidth := sizeWidth_le f
  dsimp only
  exact ⟨rfl, hend, hlen, hwire, hvalue, toNat_ofNat_of_rd hpid (by omega), toNat_ofNat_of_rd ha (by omega),
    toNat_ofNat_of_rd hb (by omega), toNat_ofNat_of_rd hc (by omega), toNat_ofNat_of_rd hd (by omega),
    toNat_ofNat_of_rd hapi (by omega), toNat_ofNat_of_rd htime (by omega), toNat_ofNat_of_rd hsize (by omega)⟩

end Sys2Proof.Machine
end

section
/-! SUPPORT. The address operations (42_address_codec.md): the read of each form by the names of its bytes, what follows a written
address, the missing bytes, and the entry flag bits that pick the form. -/

namespace Sys2Proof.Machine

/-! ### What follows a written address -/

section Written

variable {s : State} {i : Instr} {n : Nat} {a : BitVec 32} {q : BitVec 8}

/-- The two ways on from an address operation that has read `n` bytes: the LinkInfo stage, or the end of an entry that the
list has room for (R178, R182). -/
theorem exec_of_setAddress (h : exec i s = setAddress a q (moveCursor n s)) :
    (s.fields.ptag = .extendedBeacon → exec i s = .next { s with
      cur := s.cur + n, entry := { s.entry with address := a, qualifier := q }, phase := .link }) ∧
    (s.fields.ptag ≠ .extendedBeacon → withinCap s.params.entryCap (s.fields.entries.length + 1) = true →
      exec i s = .next (afterEntry { s.entry with address := a, qualifier := q } (s.cur + n) s)) := by
  rw [h, setAddress_eq]
  refine ⟨fun hext => congrArg _ (if_pos hext), fun hbeacon hroom => congrArg _ ?_⟩
  exact (if_neg hbeacon).trans (if_neg (ne_true_of_eq_false (entriesFull_eq_false.mpr hroom)))

end Written

/-! ### The reads of the two modes -/

section Reads

variable {s : State}

theorem available_moveCursor {n k : Nat} : available (moveCursor n s) k ↔ available s (n + k) := by
  simp only [available, moveCursor_cur, moveCursor_frm, Nat.add_assoc]

/-- Normal mode where the address bytes have the little-endian value `x`: the qualifier is the byte behind them (R150). -/
theorem normalAddress_of_value {w n : Nat} {x : BitVec w} (h : available s (n + 1))
    (hx : leNat ((s.frm.drop s.cur).take n) = x.toNat) :
    normalAddress n s = setAddress (x.setWidth 32) (byteAt s n) (moveCursor (n + 1) s) := by
  rw [normalAddress, reading_of_value (by omega) hx, reading_one (available_moveCursor.mpr h), byteAt_moveCursor,
    moveCursor_moveCursor, BitVec.ofNat_toNat, BitVec.ofNat_toNat, BitVec.setWidth_eq, Nat.add_zero]

/-- The qualifier byte is read on its own, behind the address bytes: one byte short is too short (R159). -/
theorem normalAddress_of_not_available {n : Nat} (h : ¬ available s (n + 1)) :
    normalAddress n s = .next (respond (.decodeError .insufficientData) s) :=
  reading_of_rest_short fun _ => reading_of_not_available (mt available_moveCursor.mp h)

/-- `m >> qb` is what the byte has above its `qb` low bits (R150, R82). -/
theorem microAddress_toNat (qb : Nat) (b : Byte) :
    microAddress qb b.toNat = (b.extractLsb' qb (8 - qb)).setWidth 32 := by
  refine BitVec.eq_of_getLsbD_eq fun i hi => ?_
  rw [microAddress, BitVec.getLsbD_ofNat, Nat.testBit_shiftRight, BitVec.testBit_toNat, BitVec.getLsbD_setWidth,
    BitVec.getLsbD_extractLsb']
  by_cases hlt : i < 8 - qb
  · simp only [hlt, decide_true, Bool.true_and]
  · simp only [hlt, decide_false, Bool.false_and, BitVec.getLsbD_of_ge b (qb + i) (by omega)]

/-- The mask of R150 keeps the `qb` low bits of the byte (R82). -/
theorem microQualifier_toNat (qb : Nat) (b : Byte) :
    microQualifier qb b.toNat = (b.extractLsb' 0 qb).setWidth 8 := by
  refine BitVec.eq_of_toNat_eq ?_
  rw [microQualifier, BitVec.toNat_ofNat, Nat.one_shiftLeft, Nat.and_two_pow_sub_one_eq_mod, BitVec.toNat_setWidth,
    BitVec.extractLsb'_toNat, Nat.shiftRight_zero]

/-- Micro mode: the byte splits above its `qb` qualifier bits (R82). -/
theorem splitAddress_of_available (qb : Nat) (h : available s 1) :
    splitAddress qb s = setAddress (((byteAt s 0).extractLsb' qb (8 - qb)).setWidth 32)
      (((byteAt s 0).extractLsb' 0 qb).setWidth 8) (moveCursor 1 s) := by
  rw [splitAddress, reading_one h, microAddress_toNat, microQualifier_toNat]

end Reads

/-! ### The operations -/

/-- Settles O22: each form is one read of its address bytes and one of the qualifier byte. -/
theorem normalAddressForms : Obligations.NormalAddressForms := by
  intro s i n a hform h
  refine exec_of_setAddress ?_
  obtain ⟨rfl, rfl, rfl⟩ | ⟨rfl, rfl, rfl⟩ | ⟨rfl, rfl, rfl⟩ | ⟨rfl, rfl, rfl⟩ := hform
  · exact normalAddress_of_value h <| leNat_ahead_one (i := 0) (by omega)
  · exact normalAddress_of_value h <| leNat_ahead_append (i := 0) (by omega) <| leNat_ahead_one (by omega)
  · exact normalAddress_of_value h <| leNat_ahead_append (i := 0) (by omega) <| leNat_ahead_append (by omega) <|
      leNat_ahead_one (by omega)
  · exact (normalAddress_of_value h <| leNat_ahead_append (i := 0) (by omega) <| leNat_ahead_append (by omega) <|
      leNat_ahead_append (by omega) <| leNat_ahead_one (by omega)).trans (by rw [BitVec.setWidth_eq])

/-- Settles O23: the four forms are one split, at 0, 2, 4 and 6 qualifier bits. -/
theorem microAddressForms : Obligations.MicroAddressForms := by
  intro s i a q hform h
  refine exec_of_setAddress ?_
  obtain ⟨rfl, rfl, rfl⟩ | ⟨rfl, rfl, rfl⟩ | ⟨rfl, rfl, rfl⟩ | ⟨rfl, rfl, rfl⟩ := hform
  · have hnone : (byteAt s 0).extractLsb' 0 0 = 0#0 := BitVec.eq_nil _
    exact (splitAddress_of_available 0 h).trans (by rw [BitVec.extractLsb'_eq_self, hnone, BitVec.setWidth_zero])
  · exact splitAddress_of_available 2 h
  · exact splitAddress_of_available 4 h
  · exact splitAddress_of_available 6 h

/-- Settles O24: a normal form ends at whichever of its two reads finds too few bytes, a micro form at its one read. -/
theorem addressReadsOfMissingBytesRaise : Obligations.AddressReadsOfMissingBytesRaise := by
  intro s i width hform h
  obtain ⟨rfl, rfl⟩ | ⟨rfl, rfl⟩ | ⟨rfl, rfl⟩ | ⟨rfl, rfl⟩ | hmicro := hform
  iterate 4 exact normalAddress_of_not_available h
  obtain ⟨rfl, rfl⟩ | ⟨rfl, rfl⟩ | ⟨rfl, rfl⟩ | ⟨rfl, rfl⟩ := hmicro
  all_goals exact reading_of_not_available h

/-- Settles O31: the address stage tests `size_mode`, and then `addr_size` gives the split or the address bytes. -/
theorem addressFormFollowsEntryFlags : Obligations.AddressFormFollowsEntryFlags := by
  intro s hp
  refine ⟨?_, ?_, ?_, ?_, ?_, ?_, ?_, ?_⟩
  all_goals
    intro hmode hsize
    rw [step_address hp, hmode, hsize]
    rfl

end Sys2Proof.Machine
end

section
/-! SUPPORT. The network payload and its dispatch (43_network_payload.md): the operations that the byte at the cursor picks, the tag
byte, the parts of an entry, and the loop test. -/

namespace Sys2Proof.Machine

/-! ### The operations that the byte at the cursor picks -/

section Picked

variable {s : State}

theorem byteAtCursor_of_available (h : available s 1) : byteAtCursor s = some (byteAt s 0) :=
  List.getElem?_eq_some_iff.mpr ⟨h, (List.getD_eq_getElem _ _ h).symm⟩

theorem step_tag_op (hp : s.phase = .network) (hsize : s.fields.payloadSize ≠ 0#32) (h : available s 1) :
    step s = exec (decodeTag (byteAt s 0)) s :=
  step_of_decode_op (sel := .payload s.fields.payloadSize (some (byteAt s 0)))
    (by simp only [selector, hp, byteAtCursor_of_available h]) (if_neg hsize)

theorem step_entry_op (hp : s.phase = .entry) (h : available s 1) : step s = exec (decodeEntryByte (byteAt s 0)) s :=
  step_of_decode_op (sel := .entry (some (byteAt s 0))) (by simp only [selector, hp, byteAtCursor_of_available h]) rfl

theorem step_link_op (hp : s.phase = .link) (h : available s 1) : step s = exec (decodeLinkByte (byteAt s 0)) s :=
  step_of_decode_op (sel := .link (some (byteAt s 0))) (by simp only [selector, hp, byteAtCursor_of_available h]) rfl

theorem step_address_op (hp : s.phase = .address) : step s = exec (decodeAddressForm (entryFlagByte s.entry)) s :=
  step_of_decode_op (sel := .address (entryFlagByte s.entry)) (by simp only [selector, hp]) rfl

theorem decodeTag_of_other {b : Byte} (h0 : b ≠ 0x00#8) (h1 : b ≠ 0x01#8) (h5 : b ≠ 0x05#8) : decodeTag b = .netBadTag b :=
  (if_neg h0).trans ((if_neg h1).trans (if_neg h5))

end Picked

/-! ### The dispatch and the tag byte -/

section Tag

variable {s : State} {tag : PayloadTag} {go : State → Result}

theorem readTag_of_available (h : available s 1) : readTag tag s go = go (beginPayload tag (moveCursor 1 s)) :=
  readTag_of_byte (byteAtCursor_of_available h)

theorem readTag_of_not_available (h : ¬ available s 1) :
    readTag tag s go = .next (respond (.decodeError .insufficientData) s) :=
  reading_of_not_available h

theorem step_network_of_zero (hp : s.phase = .network) (hzero : s.fields.payloadSize = 0#32) : step s = exec .netAck s :=
  (step_network hp).trans (if_pos hzero)

theorem step_network_of_ne_zero (hp : s.phase = .network) (hsize : s.fields.payloadSize ≠ 0#32) :
    step s = reading 1 s afterTag :=
  (step_network hp).trans (if_neg hsize)

/-- After its tag byte a payload is of an unsupported type, or it has begun: one byte counted and no entry yet (R172, R177). -/
theorem afterTag_cases (b : Nat) (s : State) :
    afterTag b s = raiseError .unsupportedNetworkPacketType s ∨
      ∃ t, afterTag b s = .next t ∧ t.cur = s.cur ∧ t.consumed = 1 ∧ t.fields.entries = [] := by
  unfold afterTag
  split_ifs
  · exact .inr ⟨_, rfl, rfl, rfl, rfl⟩
  · exact .inr ⟨_, rfl, rfl, rfl, rfl⟩
  · exact .inr ⟨_, rfl, rfl, rfl, rfl⟩
  · exact .inl rfl

end Tag

/-- Settles O36: the dispatch stage tests the API id alone. -/
theorem dispatchOnApiId : Obligations.DispatchOnApiId :=
  fun _ => ⟨rfl, fun _ => rfl, fun hp hnet => (step_dispatch hp).trans (if_pos hnet),
    fun hp hother => (step_dispatch hp).trans (if_neg hother)⟩

/-- Settles O26: `Ack` is picked without a read, and RequestBeacon makes the one read of its tag byte. -/
theorem ackAndRequestBeaconHaveNoEntries : Obligations.AckAndRequestBeaconHaveNoEntries := by
  intro s
  refine ⟨rfl, fun h => ?_, fun h => ?_, step_network_of_zero, fun hp hsize h htag => ?_⟩
  · rw [exec, execNetReqBeacon, readTag_of_available h]
    rfl
  · rw [exec, execNetReqBeacon, readTag_of_not_available h]
  · rw [step_tag_op hp hsize h, htag]
    rfl

/-- Settles O27: both operations are one read of the tag byte and the first loop test. -/
theorem beaconTagsStartEntryLoop : Obligations.BeaconTagsStartEntryLoop := by
  intro s i tag hform
  have hexec : exec i s = readTag tag s fun s1 => .next (entryLoop s1) := by
    obtain ⟨rfl, rfl⟩ | ⟨rfl, rfl⟩ := hform <;> rfl
  have hpick : decodeTag (if tag = .beacon then 0x00#8 else 0x05#8) = i := by
    obtain ⟨rfl, rfl⟩ | ⟨rfl, rfl⟩ := hform <;> rfl
  refine ⟨fun h => ?_, fun h => ?_, fun hp hsize h htag => ?_⟩
  · rw [hexec, readTag_of_available h]
    rfl
  · rw [hexec, readTag_of_not_available h]
  · rw [step_tag_op hp hsize h, htag, hpick]

/-- Settles O28: the tag byte is read and then rejected. -/
theorem otherTagsAreUnsupported : Obligations.OtherTagsAreUnsupported := by
  intro s tag
  have hbad (t : Byte) (h : available s 1) :
      exec (.netBadTag t) s = .next (respond (.decodeError .unsupportedNetworkPacketType) s) := reading_of_le h
  refine ⟨hbad tag, reading_of_not_available, fun hp hsize h h0 h1 h5 => ?_⟩
  rw [step_tag_op hp hsize h, decodeTag_of_other h0 h1 h5, hbad _ h]

/-- Settles O29: whatever the tag, the payload stage reads its byte and goes on as `afterTag` does. -/
theorem tagByteIsReadFirst : Obligations.TagByteIsReadFirst := by
  intro s hp
  refine ⟨fun hsize h => ?_, fun hsize h => ?_, step_network_of_zero hp⟩
  · rw [step_network_of_ne_zero hp hsize, reading_of_not_available h]
  · rw [step_network_of_ne_zero hp hsize, reading_one h]
    exact afterTag_cases _ (moveCursor 1 s)

/-! ### The parts of an entry -/

section Parts

variable {s : State}

/-- Two reads of one byte each, with fewer than two bytes left. -/
theorem reading_twice_of_not_available {go : Nat → Nat → State → Result} (h : ¬ available s 2) :
    (reading 1 s fun a s1 => reading 1 s1 (go a)) = .next (respond (.decodeError .insufficientData) s) :=
  reading_of_rest_short fun _ => reading_of_not_available (mt available_moveCursor.mp h)

theorem exec_netEntry {dtn active sizeMode : Bool} {addrSize : BitVec 2} {hops : BitVec 3} (h : available s 2) :
    exec (.netEntry dtn active sizeMode addrSize hops) s = .next { s with
      cur := s.cur + 2,
      entry := { dtn := dtn, active := active, sizeMode := sizeMode, addrSize := addrSize, hops := hops, age := byteAt s 1,
                 address := 0#32, qualifier := 0#8, link := none },
      start := s.cur, phase := .address } := by
  rw [exec, execNetEntry, reading_one (by omega), reading_one (available_moveCursor.mpr h), byteAt_moveCursor,
    BitVec.ofNat_toNat, BitVec.setWidth_eq]
  rfl

/-- With room in the list the entry ends, `n` bytes on, as one pass of the loop does (R176, R180). -/
theorem finishEntry_of_room {e : Entry} {n : Nat} (hroom : withinCap s.params.entryCap (s.fields.entries.length + 1) = true) :
    finishEntry (withEntry e (moveCursor n s)) = .next (afterEntry e (s.cur + n) s) :=
  (finishEntry_eq _).trans (congrArg _ (if_neg (ne_true_of_eq_false (entriesFull_eq_false.mpr hroom))))

theorem entriesFull_eq_true {p : Params} {es : List Entry} (hfull : withinCap p.entryCap (es.length + 1) = false) :
    entriesFull p es = true :=
  Bool.eq_true_of_not_eq_false (mt entriesFull_eq_false.mp (ne_true_of_eq_false hfull))

/-- Without room the entry's end stops the stream (R182). -/
theorem finishEntry_of_full {e : Entry} {n : Nat} (hfull : withinCap s.params.entryCap (s.fields.entries.length + 1) = false) :
    finishEntry (withEntry e (moveCursor n s)) = .next (stopActive .entryCapExceeded s) :=
  (finishEntry_eq _).trans (congrArg _ (if_pos (entriesFull_eq_true hfull)))

/-- The address of a `Beacon` entry ends the entry. -/
theorem setAddress_of_full {a : BitVec 32} {q : BitVec 8} {n : Nat} (hbeacon : s.fields.ptag ≠ .extendedBeacon)
    (hfull : withinCap s.params.entryCap (s.fields.entries.length + 1) = false) :
    setAddress a q (moveCursor n s) = .next (stopActive .entryCapExceeded s) :=
  (if_neg hbeacon).trans (finishEntry_of_full hfull)

theorem exec_netLinkInfo {packetSize speed : BitVec 3} {dlOnly halt : Bool} (h : available s 1) :
    exec (.netLinkInfo packetSize speed dlOnly halt) s = finishEntry (withEntry
      { s.entry with link := some { packetSize := packetSize, speed := speed, dlOnly := dlOnly, halt := halt } }
      (moveCursor 1 s)) := by
  rw [exec, execNetLinkInfo, reading_one h, moveCursor_entry]

/-- With its bytes there, a normal form writes some address and qualifier (R150). -/
theorem normalAddress_of_available {n : Nat} (h : available s (n + 1)) :
    ∃ a q, normalAddress n s = setAddress a q (moveCursor (n + 1) s) := by
  rw [normalAddress, reading_of_le (by omega), reading_one (available_moveCursor.mpr h), moveCursor_moveCursor]
  exact ⟨_, _, rfl⟩

/-- The address stage reads as many bytes as `size_mode` and `addr_size` say, and writes some address and qualifier (R150). -/
theorem step_address_of_available (hp : s.phase = .address)
    (h : available s (if s.entry.sizeMode then 1 else s.entry.addrSize.toNat + 2)) :
    ∃ a q, step s = setAddress a q (moveCursor (if s.entry.sizeMode then 1 else s.entry.addrSize.toNat + 2) s) := by
  rw [step_address hp]
  split_ifs at h ⊢
  · exact ⟨_, _, splitAddress_of_available _ h⟩
  · exact normalAddress_of_available h

end Parts

/-- Settles O30: two reads of one byte each; the entry stage runs the operation with the bits of the first. -/
theorem entryStartsWithFlagByteAndAge : Obligations.EntryStartsWithFlagByteAndAge := by
  refine ⟨fun s dtn active sizeMode addrSize hops => ⟨exec_netEntry, fun h => ?_⟩, fun s hp => ⟨fun h => ?_, fun h => ?_⟩⟩
  · rw [exec, execNetEntry, reading_twice_of_not_available h]
  · exact (step_entry_op hp (by omega)).trans (exec_netEntry h)
  · rw [step_entry hp, reading_twice_of_not_available h]

/-- Settles O32: one read, and the end of an entry that the list has room for. -/
theorem linkInfoCompletesEntry : Obligations.LinkInfoCompletesEntry := by
  refine ⟨fun s packetSize speed dlOnly halt => ⟨fun h hroom => ?_, fun h => ?_⟩,
    fun s hp => ⟨fun h hroom => ?_, fun h => ?_⟩⟩
  · exact (exec_netLinkInfo h).trans (finishEntry_of_room hroom)
  · rw [exec, execNetLinkInfo, reading_of_not_available h]
  · exact (step_link_op hp h).trans ((exec_netLinkInfo h).trans (finishEntry_of_room hroom))
  · exact (step_link hp).trans (reading_of_not_available h)

/-- Settles O25: with its bytes there, each of these operations ends the entry, and the list has no room for it. -/
theorem entryBeyondCapacityStopsStream : Obligations.EntryBeyondCapacityStopsStream := by
  intro s hfull
  refine ⟨fun i width hform h hbeacon => ?_, fun packetSize speed dlOnly halt h => ?_, rfl⟩
  · have haddress : ∃ a q, exec i s = setAddress a q (moveCursor width s) := by
      obtain ⟨rfl, rfl⟩ | ⟨rfl, rfl⟩ | ⟨rfl, rfl⟩ | ⟨rfl, rfl⟩ | hmicro := hform
      iterate 4 exact normalAddress_of_available h
      obtain ⟨rfl, rfl⟩ | ⟨rfl, rfl⟩ | ⟨rfl, rfl⟩ | ⟨rfl, rfl⟩ := hmicro
      all_goals exact ⟨_, _, splitAddress_of_available _ h⟩
    obtain ⟨a, q, hexec⟩ := haddress
    rw [hexec, setAddress_of_full hbeacon hfull]
  · rw [exec_netLinkInfo h, finishEntry_of_full hfull]

/-! ### The entry loop -/

/-- A step that makes the loop test goes on to another entry while fewer bytes than declared are counted, to the trailer otherwise. -/
theorem answers_of_loopTest {s t : State} (hstep : step s = .next t) (hsize : t.fields.payloadSize = s.fields.payloadSize)
    (hphase : t.phase = if t.consumed < s.fields.payloadSize.toNat then .entry else .signature) :
    ∃ t', step s = .next t' ∧ t'.consumed = t.consumed ∧ t'.fields.payloadSize = s.fields.payloadSize ∧
      (t.consumed < s.fields.payloadSize.toNat → t'.phase = .entry) ∧
      (s.fields.payloadSize.toNat ≤ t.consumed → t'.phase = .signature) :=
  ⟨t, hstep, rfl, hsize, fun hlt => hphase.trans (if_pos hlt), fun hle => hphase.trans (if_neg (Nat.not_lt.mpr hle))⟩

/-- The step after a beacon tag begins the loop with the tag byte counted. -/
theorem step_of_beacon_tag {s : State} (hp : s.phase = .network) (hsize : s.fields.payloadSize ≠ 0#32) (h : available s 1)
    (htag : byteAt s 0 = 0x00#8 ∨ byteAt s 0 = 0x05#8) :
    ∃ tag, step s = .next (entryLoop (beginPayload tag (moveCursor 1 s))) := by
  obtain h0 | h5 := htag
  · obtain ⟨hexec, -, hstep⟩ := beaconTagsStartEntryLoop s _ _ (.inl ⟨rfl, rfl⟩)
    exact ⟨.beacon, (hstep hp hsize h h0).trans (hexec h)⟩
  · obtain ⟨hexec, -, hstep⟩ := beaconTagsStartEntryLoop s _ _ (.inr ⟨rfl, rfl⟩)
    exact ⟨.extendedBeacon, (hstep hp hsize h h5).trans (hexec h)⟩

/-- Settles O33: the tag byte, the address and the LinkInfo byte each end in the same loop test, on the bytes counted so far. -/
theorem entryLoopTestsConsumedBytes : Obligations.EntryLoopTestsConsumedBytes := by
  intro s consumed hcase
  obtain ⟨hp, hsize, h, htag, rfl⟩ | ⟨hp, hbeacon, hroom, h, rfl⟩ | ⟨hp, hroom, h, rfl⟩ := hcase
  · obtain ⟨tag, hstep⟩ := step_of_beacon_tag hp hsize h htag
    exact answers_of_loopTest hstep rfl rfl
  · obtain ⟨a, q, hstep⟩ := step_address_of_available hp h
    obtain ⟨-, hends⟩ := exec_of_setAddress ((step_address_op hp).symm.trans hstep)
    exact answers_of_loopTest ((step_address_op hp).trans (hends hbeacon hroom)) rfl rfl
  · have hstep := (step_link_op hp h).trans ((exec_netLinkInfo h).trans (finishEntry_of_room hroom))
    exact answers_of_loopTest hstep rfl rfl

/-- An entry takes at least three bytes of the frame (R83). -/
theorem three_le_of_decodeEntry {frm : Memory} {cur cur' : Nat} {ext : Bool} {e : Entry}
    (h : decodeEntry frm cur ext = .ok (e, cur')) : cur + 3 ≤ cur' ∧ cur' ≤ frm.length := by
  obtain ⟨hwidth, hend, -⟩ := entryWidthIsFixedByItsFlags frm cur cur' ext e h
  refine ⟨?_, hend⟩
  split at hwidth <;> omega

/-- Any two amounts of fuel beyond a third of the bytes left give the loop the same result: an entry uses one and takes three bytes. -/
theorem networkEntries_of_enough {p : Params} {frm : Memory} {declared : Nat} {ext : Bool} {es : List Entry}
    {consumed cur m n : Nat} (hm : (frm.length - cur) / 3 < m) (hn : (frm.length - cur) / 3 < n) :
    networkEntries p frm declared ext m es consumed cur = networkEntries p frm declared ext n es consumed cur := by
  induction m generalizing n es consumed cur with
  | zero => omega
  | succ m ih =>
    obtain ⟨n, rfl⟩ : ∃ k, n = k + 1 := ⟨n - 1, by omega⟩
    unfold networkEntries
    split
    · cases hentry : decodeEntry frm cur ext with
      | error stop => rfl
      | ok r =>
        obtain ⟨e, cur'⟩ := r
        obtain ⟨hthree, hend⟩ := three_le_of_decodeEntry hentry
        simp only [ok_bind]
        split
        · rfl
        · exact ih (by omega) (by omega)
    · rfl

/-- Settles O35: the bound of R183 is enough fuel, and so is any more. -/
theorem entryLoopEndsWithinFrame : Obligations.EntryLoopEndsWithinFrame :=
  fun _ _ _ _ _ _ _ _ _ hfuel => networkEntries_of_enough hfuel (Nat.lt_succ_self _)

end Sys2Proof.Machine
end

section
/-! SUPPORT. The packet decode and its trailer (44_packet_codec.md): the first step on fresh registers, the two trailer fields, and the
bytes behind the last field, which no read of the decode reaches. -/

namespace Sys2Proof.Machine

/-- Settles O37: the packet stage looks at no byte and at no register. -/
theorem packetDecodeStartsFresh : Obligations.PacketDecodeStartsFresh :=
  fun _ => ⟨rfl, fun hp => step_of_decode_op (sel := .packet) (by simp only [selector, hp]) rfl⟩

/-! ### The trailer -/

section Trailer

variable {s : State} (x : BitVec 16) (n : Nat)

theorem setSignature_moveCursor : setSignature x.toNat (moveCursor n s) = .next { s with
    cur := s.cur + n, fields := { s.fields with signature := x }, phase := .crc } := by
  rw [setSignature, BitVec.ofNat_toNat, BitVec.setWidth_eq]
  rfl

theorem producePacket_moveCursor : producePacket x.toNat (moveCursor n s) =
    .next (respond (.produced { s.fields with crcValue := x }) s) := by
  rw [producePacket, BitVec.ofNat_toNat, BitVec.setWidth_eq, respond_moveCursor, moveCursor_fields]

theorem step_signature_op (hp : s.phase = .signature) : step s = exec (.pktSgn (flag s.fields.flags .sgn)) s :=
  step_of_decode_op (sel := .signature s.fields.flags) (by simp only [selector, hp]) rfl

theorem step_crc_op (hp : s.phase = .crc) : step s = exec (.pktCrc (flag s.fields.flags .crc)) s :=
  step_of_decode_op (sel := .crc s.fields.flags) (by simp only [selector, hp]) rfl

end Trailer

/-- Settles O38: in the present form one read of two bytes, in the absent form none. -/
theorem trailerFieldsByFlags : Obligations.TrailerFieldsByFlags := by
  intro s
  refine ⟨fun h => ?_, rfl, fun h => ?_, rfl, reading_of_not_available, reading_of_not_available, step_signature_op, step_crc_op⟩
  · exact (reading_two h).trans (setSignature_moveCursor _ 2)
  · exact (reading_two h).trans (producePacket_moveCursor _ 2)

/-! ### The bytes behind the last field -/

/-- Where `d` succeeds, so does `d'`, with the same value. -/
def KeepsOk {α : Type} (d d' : Decode α) : Prop := ∀ a, d = .ok a → d' = .ok a

section KeepsOk

variable {α β : Type}

theorem KeepsOk.refl (d : Decode α) : KeepsOk d d := fun _ h => h

theorem KeepsOk.error (stop : DecodeStop) (d : Decode α) : KeepsOk (.error stop) d := nofun

/-- A decode keeps its success step by step. -/
theorem KeepsOk.bind {d d' : Decode α} {f f' : α → Decode β} (hd : KeepsOk d d') (hf : ∀ a, KeepsOk (f a) (f' a)) :
    KeepsOk (d >>= f) (d' >>= f') := by
  intro b h
  obtain ⟨a, ha, hb⟩ := bind_eq_ok.mp h
  exact bind_eq_ok.mpr ⟨a, hd a ha, hf a b hb⟩

theorem KeepsOk.ite {c : Prop} [Decidable c] {d d' e e' : Decode α} (hd : KeepsOk d d') (he : KeepsOk e e') :
    KeepsOk (if c then d else e) (if c then d' else e') := by
  split
  · exact hd
  · exact he

end KeepsOk

section Appended

variable (frm more : Memory)

theorem keepsOk_rd (n cur : Nat) : KeepsOk (rd frm n cur) (rd (frm ++ more) n cur) := by
  unfold rd
  cases h : memRead frm cur n with
  | none => exact .error _ _
  | some v =>
    rw [memRead_append h]
    exact .refl _

theorem keepsOk_flagsLoop (left : Nat) (got : List Byte) (cur : Nat) :
    KeepsOk (flagsLoop frm left got cur) (flagsLoop (frm ++ more) left got cur) := by
  induction left generalizing got cur with
  | zero => exact .refl _
  | succ left ih =>
    unfold flagsLoop
    cases hb : frm[cur]? with
    | none => exact .error _ _
    | some b =>
      have hmore : (frm ++ more)[cur]? = some b :=
        (List.getElem?_append_left (List.getElem?_eq_some_iff.mp hb).1).trans hb
      rw [hmore]
      exact .ite (.refl _) (ih _ _)

theorem keepsOk_decodeHeader (cur : Nat) : KeepsOk (decodeHeader frm cur) (decodeHeader (frm ++ more) cur) := by
  refine .bind (keepsOk_flagsLoop frm more _ _ _) fun (f, flen, cur) => .bind (keepsOk_rd frm more _ _) fun (pid, cur) => ?_
  refine .ite (.refl _) ?_
  refine .bind (keepsOk_rd frm more _ _) fun a => .bind (keepsOk_rd frm more _ _) fun b => ?_
  refine .bind (keepsOk_rd frm more _ _) fun c => .bind (keepsOk_rd frm more _ _) fun d => ?_
  refine .bind (keepsOk_rd frm more _ _) fun apiId => .bind (keepsOk_rd frm more _ _) fun timestamp => ?_
  exact .bind (keepsOk_rd frm more _ _) fun payloadSize => .refl _

theorem keepsOk_decodeAddress (cur : Nat) (sizeMode : Bool) (addrSize : BitVec 2) :
    KeepsOk (decodeAddress frm cur sizeMode addrSize) (decodeAddress (frm ++ more) cur sizeMode addrSize) := by
  refine .ite ?_ ?_
  · exact .bind (keepsOk_rd frm more _ _) fun m => .refl _
  · exact .bind (keepsOk_rd frm more _ _) fun a => .bind (keepsOk_rd frm more _ _) fun q => .refl _

theorem keepsOk_decodeEntry (cur : Nat) (ext : Bool) : KeepsOk (decodeEntry frm cur ext) (decodeEntry (frm ++ more) cur ext) := by
  refine .bind (keepsOk_rd frm more _ _) fun e => .bind (keepsOk_rd frm more _ _) fun age => ?_
  refine .bind (keepsOk_decodeAddress frm more _ _ _) fun address => .ite ?_ (.refl _)
  exact .bind (keepsOk_rd frm more _ _) fun l => .refl _

variable (p : Params)

theorem keepsOk_networkEntries (declared : Nat) (ext : Bool) (fuel : Nat) (es : List Entry) (consumed cur : Nat) :
    KeepsOk (networkEntries p frm declared ext fuel es consumed cur)
      (networkEntries p (frm ++ more) declared ext fuel es consumed cur) := by
  induction fuel generalizing es consumed cur with
  | zero => exact .refl _
  | succ fuel ih =>
    unfold networkEntries
    refine .ite (.bind (keepsOk_decodeEntry frm more _ _) fun e => ?_) (.refl _)
    exact .ite (.refl _) (ih _ _ _)

/-- The fuel grows with the frame, and the shorter frame's is enough for it already (R183). -/
theorem keepsOk_networkEntries_of_length (declared : Nat) (ext : Bool) (es : List Entry) (consumed cur : Nat) :
    KeepsOk (networkEntries p frm declared ext (frm.length + 1) es consumed cur)
      (networkEntries p (frm ++ more) declared ext ((frm ++ more).length + 1) es consumed cur) := by
  have hlen : frm.length ≤ (frm ++ more).length := by
    rw [List.length_append]
    omega
  rw [networkEntries_of_enough (n := (frm ++ more).length + 1) (by omega) (by omega)]
  exact keepsOk_networkEntries frm more p _ _ _ _ _ _

theorem keepsOk_decodeNetwork (cur declared : Nat) :
    KeepsOk (decodeNetwork p frm cur declared) (decodeNetwork p (frm ++ more) cur declared) := by
  refine .ite (.refl _) (.bind (keepsOk_rd frm more _ _) fun tag => .ite (.refl _) (.ite ?_ (.ite ?_ (.refl _))))
  · exact .bind (keepsOk_networkEntries_of_length frm more p _ _ _ _ _) fun r => .refl _
  · exact .bind (keepsOk_networkEntries_of_length frm more p _ _ _ _ _) fun r => .refl _

theorem keepsOk_dispatchPayload (header : Packet) (cur : Nat) :
    KeepsOk (dispatchPayload p header frm cur) (dispatchPayload p header (frm ++ more) cur) :=
  .ite (keepsOk_decodeNetwork frm more p _ _) (.refl _)

theorem keepsOk_decodePacketAt : KeepsOk (decodePacketAt p frm) (decodePacketAt p (frm ++ more)) := by
  refine .bind (keepsOk_decodeHeader frm more _) fun header => .bind (keepsOk_dispatchPayload frm more p _ _) fun payload => ?_
  exact .bind (keepsOk_rd frm more _ _) fun signature => .bind (keepsOk_rd frm more _ _) fun crc => .refl _

end Appended

/-- The decode ends where its last read, that of the CRC, ends. -/
theorem cursor_of_decodePacketAt {p : Params} {frm : Memory} {packet : Packet} {read : Nat}
    (h : decodePacketAt p frm = .ok (packet, read)) : read ≤ frm.length := by
  obtain ⟨header, -, h⟩ := bind_eq_ok.mp h
  obtain ⟨payload, -, h⟩ := bind_eq_ok.mp h
  obtain ⟨signature, -, h⟩ := bind_eq_ok.mp h
  obtain ⟨⟨crc, cur⟩, hcrc, h⟩ := bind_eq_ok.mp h
  injection h with h
  obtain ⟨-, rfl⟩ := Prod.mk.inj h
  exact (cursor_of_rd hcrc).2

/-- Settles O39: a decode is made of reads, and a read that succeeds gives the same value with more bytes behind the frame. -/
theorem bytesAfterLastFieldAreIgnored : Obligations.BytesAfterLastFieldAreIgnored :=
  fun p frm more _ _ h => ⟨keepsOk_decodePacketAt frm more p _ h, cursor_of_decodePacketAt h⟩

end Sys2Proof.Machine
end

section
/-! SUPPORT. The frame assembler (45_frame_assembler.md): a FEED as far as its boundary test, what the test makes of the buffer, and the
invariant that no buffer ends in the sentinel between FEEDs. -/

namespace Sys2Proof.Machine

/-! ### No buffer ends in the sentinel between FEEDs -/

/-- A change of one element gives what holds of the others to every element, if it makes the one meet it. -/
theorem forall_mem_modify_of_others {α : Type} {P : α → Prop} {l : List α} {k : Nat} {f : α → α} (h : ∀ a ∈ l.eraseIdx k, P a)
    (hf : ∀ a, l[k]? = some a → P (f a)) : ∀ a ∈ l.modify k f, P a := by
  intro a ha
  obtain ⟨j, hj⟩ := List.mem_iff_getElem?.mp ha
  by_cases hjk : j = k
  · subst hjk
    rw [List.getElem?_modify_eq] at hj
    obtain ⟨b, hb, rfl⟩ := Option.map_eq_some_iff.mp hj
    exact hf b hb
  · rw [List.getElem?_modify_ne _ _ (Ne.symm hjk)] at hj
    exact h a (List.mem_eraseIdx_iff_getElem?.mpr ⟨j, hjk, hj⟩)

/-- The buffer of the stream is empty or does not end in the sentinel (R226). -/
abbrev Synchronised (d : Stream) : Prop := lastByte d.buf ≠ some Config.sentinel

theorem buffersSynchronised_of_boundary {s : State} (hp : s.phase = .boundary) :
    BuffersSynchronised s ↔ ∀ d ∈ s.streams.eraseIdx s.active, Synchronised d := by
  rw [BuffersSynchronised, if_pos hp]

theorem buffersSynchronised_of_ne_boundary {s : State} (hp : s.phase ≠ .boundary) :
    BuffersSynchronised s ↔ ∀ d ∈ s.streams, Synchronised d := by
  rw [BuffersSynchronised, if_neg hp]

theorem ne_boundary_of_decoding {p : Phase} (h : decoding p = true) : p ≠ .boundary := by
  rintro rfl
  cases h

theorem activeBuf_of_active {s : State} {d : Stream} (hd : s.streams[s.active]? = some d) : activeBuf s = d.buf := by
  rw [activeBuf, hd]
  rfl

/-- Where a boundary test that is due finds no sentinel, the tested buffer is no exception. -/
theorem forall_mem_synchronised {s : State} (h : BuffersSynchronised s)
    (htest : s.phase = .boundary → lastByte (activeBuf s) ≠ some Config.sentinel) : ∀ d ∈ s.streams, Synchronised d := by
  by_cases hp : s.phase = .boundary
  · rw [← List.modify_id s.active s.streams]
    refine forall_mem_modify_of_others ((buffersSynchronised_of_boundary hp).mp h) fun d hd => ?_
    rw [activeBuf_of_active hd] at htest
    exact htest hp
  · exact (buffersSynchronised_of_ne_boundary hp).mp h

/-- A boundary test that ends the FEED found no sentinel (R224). -/
theorem lastByte_ne_of_boundary_returns {s : State} {f : Stream → Stream} (hstep : step s = .next (finish f s))
    (hp : s.phase = .boundary) : lastByte (activeBuf s) ≠ some Config.sentinel := by
  intro hlast
  rw [step_boundary hp, if_pos hlast] at hstep
  injection hstep with hstep
  exact absurd (congrArg State.phase hstep) nofun

/-- Settles O51: only a chunk makes a buffer end in the sentinel, and the boundary test that follows it empties such a buffer. -/
theorem stepKeepsBuffersSynchronised : Obligations.StepKeepsBuffersSynchronised := by
  intro s t h hstep
  have hquiet (hp : s.phase ≠ .boundary) : ∀ d ∈ s.streams, Synchronised d := (buffersSynchronised_of_ne_boundary hp).mp h
  cases step_outcome hstep with
  | waits => exact h
  | refusesChunk k chunk rest hidle =>
    have hbufs := hquiet (by rw [hidle]; nofun)
    exact (buffersSynchronised_of_ne_boundary (by nofun)).mpr (forall_mem_modify hbufs fun _ _ hd => hd)
  | takesChunk k chunk rest d hidle =>
    have hbufs := hquiet (by rw [hidle]; nofun)
    refine (buffersSynchronised_of_boundary rfl).mpr fun d hd => hbufs d (List.mem_of_mem_eraseIdx (i := k) ?_)
    rwa [chunkTaken, updateActive_streams, updateActive_active, List.eraseIdx_modify_of_eq] at hd
  | resets k rest hidle =>
    have hp : s.phase ≠ .boundary := by rw [hidle]; nofun
    exact (buffersSynchronised_of_ne_boundary (by exact hp)).mpr (forall_mem_modify (hquiet hp) fun _ _ _ => nofun)
  | handsOver hp =>
    have hothers := (buffersSynchronised_of_boundary hp).mp h
    exact (buffersSynchronised_of_ne_boundary (by nofun)).mpr (forall_mem_modify_of_others hothers fun _ _ => nofun)
  | packetStarts hp =>
    exact (buffersSynchronised_of_ne_boundary (by nofun)).mpr (hquiet (by rw [hp]; nofun))
  | advances t hp hadv =>
    obtain ⟨hp', -, -, -, hframe⟩ := hadv
    have hbufs : ∀ d ∈ t.streams, Synchronised d := by
      rw [hframe]
      exact hquiet (ne_boundary_of_decoding hp)
    exact (buffersSynchronised_of_ne_boundary (ne_boundary_of_decoding hp')).mpr hbufs
  | returns f _ hbuf =>
    have hbufs := forall_mem_synchronised h (lastByte_ne_of_boundary_returns hstep)
    refine (buffersSynchronised_of_ne_boundary (by nofun)).mpr (forall_mem_modify hbufs fun d _ hd => ?_)
    rwa [Synchronised, hbuf]

/-! ### The flags chain of a frame that ends in the sentinel -/

/-- A flags chain that is cut short is all the bytes there were. -/
theorem eq_of_decodeFlagBytes_eq_flagsShort {bytes left : List Byte} (h : decodeFlagBytes bytes = .flagsShort left) :
    left = bytes := by
  unfold decodeFlagBytes at h
  repeat' split at h
  all_goals cases h
  all_goals rfl

/-- The flags loop fails in one way, and only on bytes without a terminator (R100). -/
theorem flagsLoop_eq_error {frm : Memory} {left : Nat} {got : List Byte} {cur : Nat} {k : DecodeStop}
    (h : flagsLoop frm left got cur = .error k) :
    k = .raised .malformedHeader ∧ ∀ b ∈ (frm.drop cur).take left, terminated b = false := by
  induction left generalizing got cur with
  | zero =>
    injection h with h
    exact ⟨h.symm, nofun⟩
  | succ left ih =>
    unfold flagsLoop at h
    split at h
    · rename_i hnone
      injection h with h
      rw [List.drop_eq_nil_of_le (List.getElem?_eq_none_iff.mp hnone)]
      exact ⟨h.symm, nofun⟩
    · rename_i b hb
      cases hterm : terminated b with
      | true =>
        simp only [hterm, if_true] at h
        cases h
      | false =>
        simp only [hterm, Bool.false_eq_true, if_false] at h
        obtain ⟨hk, hrest⟩ := ih h
        rw [(Ahead.of_getElem? hb).drop_eq, List.take_succ_cons]
        exact ⟨hk, List.forall_mem_cons.mpr ⟨hterm, hrest⟩⟩

/-- The sentinel has its terminator bit set, so that a frame that ends in it is at least as long as a chain without a terminator
(R231). -/
theorem three_le_length_of_unterminated {frm : Memory} (hlast : lastByte frm = some Config.sentinel)
    (h : ∀ b ∈ frm.take 3, terminated b = false) : 3 ≤ frm.length := by
  by_contra hshort
  rw [List.take_of_length_le (by omega)] at h
  exact absurd (h _ (List.mem_of_getLast? hlast)) (by decide)

/-- Settles O13: a chain that fails has no terminator in its first three bytes, and a frame of fewer has one in the sentinel. -/
theorem framedFlagsAreNeverShort : Obligations.FramedFlagsAreNeverShort := by
  intro frm hlast
  refine ⟨fun left h => ?_, fun k h => ?_⟩
  · have hwf := decodedOperationIsWellFormed _ _ h
    obtain rfl := eq_of_decodeFlagBytes_eq_flagsShort (Decoded.op.inj h)
    simp only [Instr.wellFormed, Bool.and_eq_true, List.all_eq_true, Bool.not_eq_true'] at hwf
    obtain ⟨hlen, hbytes⟩ := hwf
    have hlong := three_le_length_of_unterminated hlast hbytes
    have hlen : (frm.take 3).length < 3 := of_decide_eq_true hlen
    rw [List.length_take] at hlen
    omega
  · obtain ⟨hk, hbytes⟩ := flagsLoop_eq_error h
    have hlong := three_le_length_of_unterminated hlast hbytes
    refine ⟨hk, hlong, fun j hj => hbytes _ ?_⟩
    rw [List.getD_eq_getElem _ _ (by omega)]
    exact List.mem_take_iff_getElem.mpr ⟨j, by simp only [Config.flagsMaxBytes, List.drop_zero]; omega, rfl⟩

/-! ### A FEED as far as its boundary test -/

/-- Settles O2: the one test is that of the capacity. -/
theorem feedAppendsOrRefusesChunk : Obligations.FeedAppendsOrRefusesChunk := by
  intro s k chunk rest d hidle hinputs hd hrun
  rw [step_takesChunk hidle hinputs hd hrun, ← List.length_append]
  refine ⟨fun hfits => ?_, fun hover => ?_⟩
  · rw [overBufCap_eq_false.mpr hfits]
    rfl
  · have hover : overBufCap s.params d.buf chunk = true := by
      rw [← Bool.not_eq_false, overBufCap_eq_false, append, hover]
      nofun
    rw [if_pos hover]
    exact ⟨_, rfl, ⟨rfl, rfl, rfl, rfl, rfl, rfl⟩, rfl, rfl, rfl, rfl⟩

/-- Settles O42: the test looks at the last byte alone. -/
theorem boundaryIsTheLastByte : Obligations.BoundaryIsTheLastByte := by
  intro s d hp hd
  rw [step_boundary hp, activeBuf_of_active hd]
  refine ⟨fun front hbuf => ?_, fun front b hb hbuf => ?_, fun hbuf => ?_⟩
  · rw [hbuf, lastByte, List.getLast?_concat, Config.sentinel, if_pos rfl]
    rfl
  · rw [hbuf, lastByte, List.getLast?_concat, if_neg fun h : some b = some Config.sentinel => hb (Option.some.inj h)]
    rfl
  · rw [hbuf]
    rfl

/-- Settles O41: FEED.FRAME empties the buffer that it hands over, FEED.NEEDMORE writes the response and the capacity alone. -/
theorem frameBoundaryOperations : Obligations.FrameBoundaryOperations := by
  intro s d hd
  refine ⟨?_, fun last => ⟨_, growCap s.active { d with response := some .needMoreData }, rfl, ?_, rfl, rfl, rfl,
    Nat.le_add_right _ _, rfl, ⟨rfl, rfl, rfl, rfl, rfl, rfl⟩, rfl, rfl, rfl⟩⟩
  · rw [← activeBuf_of_active hd]
    rfl
  · rw [finish_streams, List.modify_eq_set_getElem?, hd]
    rfl

/-- Settles O43: a synchronised buffer with nothing appended fails the boundary test. -/
theorem emptyChunkNeedsMoreData : Obligations.EmptyChunkNeedsMoreData := by
  intro s k rest d hsync hcaps hidle hinputs hd hrun
  have hmem := List.mem_of_getElem? hd
  have hnothing : append d.buf [] = d.buf := List.append_nil _
  have hfits : overBufCap s.params d.buf [] = false :=
    overBufCap_eq_false.mpr (hnothing.symm ▸ hcaps.1 d hmem)
  have hlast : lastByte d.buf ≠ some Config.sentinel :=
    (buffersSynchronised_of_ne_boundary (by rw [hidle]; nofun)).mp hsync d hmem
  have htake := step_takesChunk hidle hinputs hd hrun
  rw [hfits, if_neg Bool.false_ne_true] at htake
  have hmore := step_boundary (s := chunkTaken k [] rest s) rfl
  rw [activeBuf_chunkTaken [] rest hd, hnothing, if_neg hlast] at hmore
  refine ⟨_, growCap k { d with buf := append d.buf [], response := some .needMoreData },
    (run_succ_of_step 1 htake).trans (run_succ_of_step 0 hmore), rfl, rfl, ?_, hnothing, rfl⟩
  simp only [finish_streams, chunkTaken, updateActive_streams, updateActive_active, List.getElem?_modify_eq, hd]
  rfl

/-! ### Every operation answers -/

/-- Settles O47: an operation answers a next state whatever the other streams are (`exec_sameButStreams`), so with those of the state
itself. -/
theorem everyOperationAnswersNextState : Obligations.EveryOperationAnswersNextState := by
  intro i s
  obtain ⟨t, -, hexec, -⟩ := exec_sameButStreams (s := s) (others := s.streams) i rfl
  exact ⟨t, hexec⟩

end Sys2Proof.Machine
end

section
/-! SUPPORT. Errors (60_exceptions.md): which one a frame reports, what raising one leaves behind, and the inputs that have no
meaning. -/

namespace Sys2Proof.Machine

/-! ### The first error of a frame (R253) -/

section Reads

variable {frm : Memory} {n cur : Nat}

theorem rd_of_le (h : cur + n ≤ frm.length) : rd frm n cur = .ok (leNat ((frm.drop cur).take n), cur + n) := by
  rw [rd, memRead_of_le h]

theorem rd_of_lt (h : frm.length < cur + n) : rd frm n cur = .error (.raised .insufficientData) := by
  rw [rd, memRead_of_lt h]

theorem rd_one_of_lt (h : cur < frm.length) : rd frm 1 cur = .ok ((frm.getD cur 0).toNat, cur + 1) := by
  rw [rd_of_le h, leNat_take_one h]

/-- A decode runs short at a read if it does so in what follows the read when the bytes of the read are there. -/
theorem insufficientData_of_read {α : Type} {f : Nat × Nat → Decode α}
    (hf : ∀ v, cur + n ≤ frm.length → f (v, cur + n) = .error (.raised .insufficientData)) :
    (rd frm n cur >>= f) = .error (.raised .insufficientData) := by
  by_cases h : cur + n ≤ frm.length
  · rw [rd_of_le h, ok_bind]
    exact hf _ h
  · rw [rd_of_lt (by omega)]
    rfl

end Reads

section Order

variable {p : Params} {frm : Memory} {h : Packet} {cur : Nat}

/-- Check 1: the flags chain fails in one way only. -/
theorem decodePacket_of_flags_error {why : DecodeStop} (hflags : decodeFlags frm 0 = .error why) :
    decodePacket p frm = .error (.raised .malformedHeader) := by
  obtain ⟨rfl, -⟩ := flagsLoop_eq_error hflags
  rw [decodePacket_eq_flagsTail, flagsTail, hflags]
  rfl

theorem decodePacket_of_flags_ok {f : FlagsWord} {flen : BitVec 2} (hflags : decodeFlags frm 0 = .ok (f, flen, cur)) :
    decodePacket p frm = pidTail p frm { Packet.blank with flags := f, flen := flen } cur := by
  rw [decodePacket_eq_flagsTail, flagsTail, hflags]
  rfl

/-- Check 2. -/
theorem pidTail_of_no_pid (hshort : frm.length < cur + 2) : pidTail p frm h cur = .error (.raised .insufficientData) := by
  rw [pidTail, rd_of_lt hshort]
  rfl

/-- Check 3, after the PID is read. -/
theorem pidTail_of_alternate_route (hpid : cur + 2 ≤ frm.length) (hroute : flag h.flags .routeset = true) :
    pidTail p frm h cur = .error (.raised .unsupportedRouteFormat) := by
  rw [pidTail, rd_of_le hpid]
  exact if_pos hroute

/-- Checks 4 to 7: under the standard route a header that the frame cuts short fails at the first read that lacks a byte. -/
theorem pidTail_of_short_header (hroute : flag h.flags .routeset = false)
    (hshort : frm.length < cur + 6 + apiWidth h.flags + timestampWidth h.flags + sizeWidth h.flags) :
    pidTail p frm h cur = .error (.raised .insufficientData) := by
  refine insufficientData_of_read fun pid _ => (if_neg (ne_true_of_eq_false hroute)).trans ?_
  refine insufficientData_of_read fun a _ => insufficientData_of_read fun b _ => ?_
  refine insufficientData_of_read fun c _ => insufficientData_of_read fun d _ => ?_
  refine insufficientData_of_read fun apiId _ => insufficientData_of_read fun timestamp _ => ?_
  refine insufficientData_of_read fun payloadSize hall => absurd hall ?_
  dsimp only
  omega

/-- After a whole header, a payload that fails is what the frame reports. -/
theorem decodePacket_of_payload_error {why : DecodeStop} (hheader : decodeHeader frm 0 = .ok (h, cur))
    (hpayload : dispatchPayload p h frm cur = .error why) : decodePacket p frm = .error why := by
  rw [decodePacket, decodePacketAt, hheader, ok_bind]
  dsimp only
  rw [hpayload]
  rfl

/-- Check 8. -/
theorem dispatchPayload_of_api (hapi : h.apiId ≠ 0#16) : dispatchPayload p h frm cur = .error (.raised .unsupportedApi) :=
  if_neg hapi

theorem dispatchPayload_of_network (hapi : h.apiId = 0#16) :
    dispatchPayload p h frm cur = decodeNetwork p frm cur h.payloadSize.toNat :=
  if_pos hapi

variable {declared : Nat} (hdeclared : declared ≠ 0)

include hdeclared

/-- Check 9. -/
theorem decodeNetwork_of_no_tag (hend : frm.length ≤ cur) :
    decodeNetwork p frm cur declared = .error (.raised .insufficientData) := by
  rw [decodeNetwork, if_neg hdeclared, rd_of_lt (by omega)]
  rfl

/-- Check 10. -/
theorem decodeNetwork_of_unknown_tag (htag : cur < frm.length) (h0 : frm.getD cur 0 ≠ 0x00#8) (h1 : frm.getD cur 0 ≠ 0x01#8)
    (h5 : frm.getD cur 0 ≠ 0x05#8) :
    decodeNetwork p frm cur declared = .error (.raised .unsupportedNetworkPacketType) := by
  have hne {b : Byte} (hb : frm.getD cur 0 ≠ b) : (frm.getD cur 0).toNat ≠ b.toNat := fun heq => hb (BitVec.eq_of_toNat_eq heq)
  rw [decodeNetwork, if_neg hdeclared, rd_one_of_lt htag, ok_bind]
  exact (if_neg (hne h1)).trans ((if_neg (hne h0)).trans (if_neg (hne h5)))

end Order

/-- Settles O40, check by check: each one is reached when the ones before it pass. -/
theorem firstErrorInFixedOrder : Obligations.FirstErrorInFixedOrder := by
  intro p frm
  refine ⟨fun why => decodePacket_of_flags_error, fun f flen cur hflags => ?_, fun h cur hheader => ?_⟩
  · rw [decodePacket_of_flags_ok hflags]
    exact ⟨fun hshort => pidTail_of_no_pid hshort, fun hpid hroute => pidTail_of_alternate_route hpid hroute,
      fun hroute hshort => pidTail_of_short_header hroute hshort⟩
  · have hdeclared (hsize : h.payloadSize ≠ 0#32) : h.payloadSize.toNat ≠ 0 := fun heq => hsize (BitVec.eq_of_toNat_eq heq)
    refine ⟨fun hapi => ?_, fun hapi hsize hend => ?_, fun hapi hsize htag h0 h1 h5 => ?_⟩
    · exact decodePacket_of_payload_error hheader (dispatchPayload_of_api hapi)
    · refine decodePacket_of_payload_error hheader ((dispatchPayload_of_network hapi).trans ?_)
      exact decodeNetwork_of_no_tag (hdeclared hsize) hend
    · refine decodePacket_of_payload_error hheader ((dispatchPayload_of_network hapi).trans ?_)
      exact decodeNetwork_of_unknown_tag (hdeclared hsize) htag h0 h1 h5

/-! ### What a response leaves behind (R254, R255) -/

/-- Settles O44. -/
theorem errorKeepsOnlyItsKind : Obligations.ErrorKeepsOnlyItsKind := fun _ _ => rfl

/-- An operation outside the boundary test that ends a decode answers an error or a Packet, or stops the stream. -/
theorem ExecOutcome.of_ended {i : Instr} {s t : State} (h : ExecOutcome i s t) (hi : stageOf i ≠ .boundary)
    (hidle : t.phase = .idle) : (∃ r, r ≠ .needMoreData ∧ t = respond r s) ∨ t = stopActive .entryCapExceeded s := by
  cases h with
  | raised k => exact .inl ⟨.decodeError k, nofun, rfl⟩
  | entryCap => exact .inr rfl
  | produced c v => exact .inl ⟨.produced _, nofun, rfl⟩
  | packetStarts => cases hidle
  | frameHandedOver h => exact absurd (h ▸ rfl) hi
  | needsMore b h => exact absurd (h ▸ rfl) hi
  | advances t _ h =>
    obtain ⟨hdecoding, -⟩ := h
    rw [hidle] at hdecoding
    cases hdecoding

/-- The step that ends a decode answers an error or a Packet, or stops the stream (R182, R200, R254). -/
theorem step_of_decode_ended {s t : State} (hp : decoding s.phase = true) (hstep : step s = .next t) (hidle : t.phase = .idle) :
    (∃ r, r ≠ .needMoreData ∧ t = respond r s) ∨ t = stopActive .entryCapExceeded s := by
  obtain ⟨hsel, -⟩ | ⟨sel, i, hsel, hdec, heq⟩ | ⟨sel, why, -, -, heq⟩ := step_cases s
  · rw [selector_eq_none.mp hsel] at hp
    cases hp
  · have hstage := stageOf_fetched hsel hdec
    exact (exec_cases (heq.symm.trans hstep)).of_ended (hstage ▸ ne_boundary_of_decoding hp) hidle
  · rw [heq] at hstep
    injection hstep with hstep
    exact .inl ⟨.decodeError _, nofun, hstep.symm⟩

/-- What a FEED that returns has made of its stream. -/
theorem active_of_finish {f : Stream → Stream} {s : State} {d : Stream}
    (hd : (finish f s).streams[(finish f s).active]? = some d) : ∃ d', s.streams[s.active]? = some d' ∧ f d' = d := by
  rw [finish_streams, finish_active, List.getElem?_modify_eq] at hd
  exact Option.map_eq_some_iff.mp hd

/-- Settles O45: the response is all that the step writes, and the buffer was empty since the frame was handed over. -/
theorem responseOfFrameLeavesBufferEmpty : Obligations.ResponseOfFrameLeavesBufferEmpty := by
  intro s t d r hsound hp hstep hidle hd hresponse hrun
  obtain ⟨-, -, hbuf⟩ := (snapshotSound_of_decoding hp).mp hsound
  obtain ⟨r', hr', rfl⟩ | rfl := step_of_decode_ended hp hstep hidle
  · obtain ⟨d', hd', rfl⟩ := active_of_finish hd
    obtain rfl : r' = r := Option.some.inj hresponse
    exact ⟨(activeBuf_of_active hd').symm.trans hbuf, ⟨rfl, rfl, rfl, rfl, rfl, rfl⟩, rfl, hr'⟩
  · obtain ⟨d', -, rfl⟩ := active_of_finish hd
    cases hrun

/-- Settles O46, code by code. -/
theorem errorAndResponseCodes : Obligations.ErrorAndResponseCodes :=
  ⟨rfl, rfl, rfl, rfl, rfl, rfl, fun _ => rfl, fun _ => rfl⟩

/-! ### Inputs without a meaning (R262) -/

section Inputs

variable {s : State} {k : Nat}

theorem acceptFeed_of_stopped {chunk : List Byte} {d : Stream} {why : StopReason} (hd : s.streams[k]? = some d)
    (hstopped : d.stopped = some why) : acceptFeed k chunk s = .refused (.streamStopped why) := by
  simp only [acceptFeed, hd, hstopped]

theorem acceptFeed_of_absent {chunk : List Byte} (habsent : s.streams.length ≤ k) :
    acceptFeed k chunk s = .fault .noSuchStream := by
  simp only [acceptFeed, List.getElem?_eq_none habsent]

theorem resetStream_of_absent (habsent : s.streams.length ≤ k) : resetStream k s = .fault .noSuchStream := by
  simp only [resetStream, List.getElem?_eq_none habsent]

theorem step_of_idle (hidle : s.phase = .idle) : step s = takeInput s := step_of_no_selector (selector_eq_none.mpr hidle)

end Inputs

/-- Settles O3: the idle block looks at its oldest input, and at the stream that the input names. -/
theorem feedOfStoppedStreamHasNoMeaning : Obligations.FeedOfStoppedStreamHasNoMeaning := by
  refine ⟨fun s k chunk rest d why hidle hinputs hd hstopped => ?_, fun s i rest hidle hinputs habsent => ?_,
    fun s hidle hinputs => ?_⟩
  · rw [step_of_idle hidle, takeInput, hinputs]
    exact acceptFeed_of_stopped hd hstopped
  · rw [step_of_idle hidle, takeInput, hinputs]
    cases i with
    | feed k chunk => exact acceptFeed_of_absent habsent
    | reset k => exact resetStream_of_absent habsent
  · rw [step_of_idle hidle, takeInput, hinputs]

end Sys2Proof.Machine
end

section
/-! SUPPORT. Reset (R42, R280): the block as it is built, and the reset of one stream between FEEDs. -/

namespace Sys2Proof.Machine

theorem length_streams_built (p : Params) (n : Nat) : (State.built p n).streams.length = n := List.length_replicate

/-- The block starts with its decode registers at rest, whatever its parameters (log 2). -/
theorem atRest_built (p : Params) (n : Nat) : AtRest (State.built p n) := ⟨rfl, rfl, rfl, rfl, rfl, rfl⟩

/-- The reset of a stream that exists: its buffer and its response are cleared, and that is all (R280). -/
theorem resetStream_of_present {s : State} {k : Nat} (hk : k < s.streams.length) :
    resetStream k s = .next { s with streams := s.streams.modify k (fun d => { d with buf := [], response := none }) } := by
  simp only [resetStream, List.getElem?_eq_getElem hk]

/-- Settles O1: every stream is built fresh, and the idle block answers a reset by `resetStream` alone. -/
theorem resetEmptiesBuffers : Obligations.ResetEmptiesBuffers := by
  refine ⟨fun p n d hd => ?_, fun p n => ⟨length_streams_built p n, rfl, atRest_built p n⟩,
    fun s k rest hidle hinputs hk => ?_⟩
  · rw [streams_built hd]
    exact ⟨rfl, rfl⟩
  · rw [step_of_idle hidle, takeInput, hinputs]
    exact resetStream_of_present (s := { s with inputs := rest }) hk

end Sys2Proof.Machine
end
